-- ==== Sys2Proof/Word.lean ====
section
/-! DEFINITION. The words, bytes and access widths of the UMach, and the letters that name an instruction's operand
fields (spec 00_scope.md R6, R8, R12; 20_memory.md R63). -/

namespace Sys2Proof

/-- A 32-bit pattern: the content of a register, a bus address, an instruction word (R6, R8). -/
abbrev Word := BitVec 32

/-- The addressable unit, 8 bits (R6). -/
abbrev Byte := BitVec 8

/-- The three data types of the machine, which are its three access widths (R63). -/
inductive Width where
  /-- Byte, 8 bit. -/
  | byte
  /-- Half, 16 bit. -/
  | half
  /-- Word, 32 bit. -/
  | word
  deriving DecidableEq, Repr

/-- Which operand field of the instruction names a register: X is the second byte, Y the third, Z the fourth (R12).
Only a read of STAT depends on it: two fields that both name STAT read it twice (R40). -/
inductive Slot where
  | x
  | y
  | z
  deriving DecidableEq, Repr

end Sys2Proof
end

