-- ==== Sys2Proof/Config.lean ====
section
/-! DEFINITION. What an implementation of the UMach fixes (the parameters of 00_scope.md R7 and the switches of
92_eei_decisions.md), and the free values: opaque constants without a body for what the spec leaves unspecified
(STAT reads, NIN beyond the memory, device answers; the operating system of the environment is `Config.wakeHandler`, in
Machine/State.lean, since it is a function of the state). -/

namespace Sys2Proof

/-- The eight error causes of 60_exceptions.md R345. -/
inductive ErrorCause where
  /-- The opcode byte is one of the 147 unassigned values (R348). -/
  | illegalOpcode
  /-- A register field holds a number that names no register (R346). -/
  | badRegister
  /-- A destination operand names PC, LIN, IR, NIN or ZERO (R349). -/
  | writeProtected
  /-- The divisor of a division or remainder instruction is zero (R350). -/
  | divideByZero
  /-- A value above MEM_MAX is to be written to SP (R347). -/
  | spRange
  /-- A data access the bus cannot serve (R351). -/
  | busError
  /-- CRM with an operand other than 0 and 1 (R352). -/
  | badOperand
  /-- The four bytes at PC cannot be read (R353). -/
  | fetchError
  deriving DecidableEq, Repr

/-- Parameter `ERR_BITS` (decision D9): the bit of ERR that each cause sets. -/
structure ErrBits where
  illegalOpcode : Fin 32
  badRegister : Fin 32
  writeProtected : Fin 32
  divideByZero : Fin 32
  spRange : Fin 32
  busError : Fin 32
  badOperand : Fin 32
  fetchError : Fin 32
  deriving DecidableEq, Repr, Inhabited

/-- Parameter `NEG_ACCESS` (decision D4): the direction of a multi-byte read of the bus table (20_memory.md R79). -/
inductive NegAccess where
  /-- An n-byte access at -k uses the internal bytes k, k+1, .., k+n-1. -/
  | mirrored
  /-- An n-byte access at -k uses the addresses -k, -k+1, .., that is the internal bytes k, k-1, ... -/
  | ascending
  /-- Only one-byte reads of the table are served. -/
  | fault
  deriving DecidableEq, Repr, Inhabited

/-- Parameter `WAKE_HANDLER` (decision D27): which operating system stands behind WAKE (48_system.md R330). -/
inductive WakeHandler where
  /-- The default: the machine state stays, the action code joins the host's trace. -/
  | recording
  /-- The one the environment supplies: any function of the action code and the state, `Config.wakeHandler`. -/
  | environment
  deriving DecidableEq, Repr, Inhabited

/-- Parameter `CALLRET` (decision D21): the reading of CALL and RET. The spec admits one; it rejects a target relative in
instructions and a return address kept in FP (47_subprogram.md R322). -/
inductive CallRet where
  /-- Absolute target, return address on the stack. -/
  | stackAbsolute
  deriving DecidableEq, Repr, Inhabited

/-- Parameter `RESET_SPECIALS` (decision D29): the power-up values of the nine registers the source gives none for. -/
structure ResetSpecials where
  fp : Word
  lin : Word
  ir : Word
  nin : Word
  stat : Word
  errm : Word
  hi : Word
  lo : Word
  cmp : Word
  deriving DecidableEq, Repr, Inhabited

/-- A port as the bus asks for it at power-up: its type number and the bytes it needs (R70, R386). -/
structure PortNeed where
  type : Byte
  length : Nat
  deriving DecidableEq, Repr

/-- A port with the address range the bus gave it: one entry of the bus's internal list (R66, R68, R386). -/
structure Port where
  type : Byte
  start : Nat
  length : Nat
  deriving DecidableEq, Repr

/-- The parameters of one realisation of the machine (R7). They never change while it runs. -/
structure Params where
  /-- The capacity of the device on the memory port; `MEM_SIZE` is this after the shortening of R72. -/
  memCapacity : Nat
  /-- `PORTS`: the ports beyond memory, terminal output and keyboard input. -/
  extraPorts : List PortNeed
  errBits : ErrBits
  /-- `ERR_HALTS`: an error also ends the run (R343, D8). -/
  errHalts : Bool
  negAccess : NegAccess
  /-- `JMP_SIGNED`: JMP reads its N as signed (R307, D18). -/
  jmpSigned : Bool
  /-- `MOD_WRITES_HILO`: MOD and MODI also write HI and LO (R229, D16). -/
  modWritesHiLo : Bool
  /-- `CALLRET`: the reading of CALL and RET (R322, D21). -/
  callRet : CallRet
  /-- `WAKE_HANDLER`: what the operating system does on WAKE (R330, D27). -/
  wakeHandler : WakeHandler
  resetSpecials : ResetSpecials
  deriving DecidableEq, Repr, Inhabited

/-- What crosses the boundary between the bus and a device, one call each (R80, R83, R366). -/
inductive DeviceEvent where
  /-- `DEVICE.read(type, offset, n)` was answered with `value`. -/
  | read (type : Byte) (offset : Nat) (n : Width) (value : Word)
  /-- `DEVICE.write(type, offset, n, value)`: an output event. -/
  | write (type : Byte) (offset : Nat) (n : Width) (value : Word)
  deriving DecidableEq, Repr

namespace Config

/-- The bit numbers of the table of R345. -/
def errBits : ErrBits :=
  { illegalOpcode := 0, badRegister := 1, writeProtected := 2, divideByZero := 3,
    spRange := 4, busError := 5, badOperand := 6, fetchError := 7 }

/-- `RESET_SPECIALS` at its default, all zero (R50, R381; DESIGN CHOICE, notes/assumptions/2.md). -/
def resetSpecials : ResetSpecials :=
  { fp := 0, lin := 0, ir := 0, nin := 0, stat := 0, errm := 0, hi := 0, lo := 0, cmp := 0 }

/-- The parameters of `State.reset`: every switch at the default the spec takes, no extra ports, and 1024 bytes of
memory, the size the spec's examples use (DESIGN CHOICE, notes/assumptions/1.md). -/
def params : Params :=
  { memCapacity := 1024, extraPorts := [], errBits := errBits, errHalts := false,
    negAccess := .mirrored, jmpSigned := true, modWritesHiLo := false,
    callRet := .stackAbsolute, wakeHandler := .recording,
    resetSpecials := resetSpecials }

/-- FREE VALUE (R40, D33): what an operand read of STAT gives, for the number of the execution, the operand field that reads
it and the pattern last written to STAT (notes/assumptions/3.md). -/
opaque statRead : Nat → Slot → Word → Word

/-- FREE VALUE (R39, D34): NIN when the four bytes at the incremented PC do not all lie in the memory port, for the
number of the fetch and that PC (notes/assumptions/4.md). -/
opaque ninUnspecified : Nat → Word → Word

/-- FREE VALUE (R80, D7): the answer of `DEVICE.read(type, offset, n)`, for the number of the fetch or
execution that asks and everything the devices have been asked and told before (notes/assumptions/5.md). -/
opaque deviceRead : Nat → List DeviceEvent → Byte → Nat → Width → Word

end Config

end Sys2Proof
end

