-- ==== Sys2Proof/Syntax.lean ====
section
/-! DEFINITION. The register names and the 109 instructions of the UMach (30_encoding.md R113), one constructor per
row of the opcode table, with the operand fields of the row's format (R102 to R109). -/

namespace Sys2Proof

/-- The content of a register field of an instruction word: a machine name (R20). Only 45 of the 256 values name a
register (R46); `Instr.wellFormed` says which instructions use no other. -/
abbrev RegNumber := BitVec 8

/-- The 45 registers (R21, R24). `gpr i` is the general register R(i+1), whose machine name is i+1. -/
inductive Reg where
  | gpr (i : Fin 32)
  | pc
  | sp
  | fp
  | lin
  | ir
  | nin
  | stat
  | err
  | errm
  | hi
  | lo
  | cmp
  | zero
  deriving DecidableEq, Repr

/-- The instructions. The operand letters are those of D0's tables (R12): x, y, z are the register numbers in the
second, third and fourth byte, n is the number field of the format. -/
inductive Instr where
  -- Control
  /-- NOP, opcode 0x00, format 000 (R130). -/
  | nop
  /-- RST, opcode 0x01, format 000 (R131). -/
  | rst
  /-- CRM, opcode 0x02, format NNN (R132). -/
  | crm (n : BitVec 24)
  /-- CSM, opcode 0x03, format NNN (R133). -/
  | csm (n : BitVec 24)
  /-- DIE, opcode 0x04, format 000 (R134). -/
  | die
  /-- RSR, opcode 0x05, format 000 (R135). -/
  | rsr
  /-- AUTSM, opcode 0x06, format 000 (R136). -/
  | autsm
  /-- SOCL, opcode 0x07, format 000 (R137). -/
  | socl
  /-- HATE, opcode 0x08, format 000 (R138). -/
  | hate
  /-- TRST, opcode 0x09, format 000 (R139). -/
  | trst
  /-- ZMB, opcode 0x0A, format 000 (R140). -/
  | zmb
  /-- ALIV, opcode 0x0B, format 000 (R141). -/
  | aliv
  -- Set, copy, load
  /-- SET, opcode 0x10, format RNN (R150). -/
  | set (x : RegNumber) (n : BitVec 16)
  /-- SETU, opcode 0x11, format RNN (R151). -/
  | setu (x : RegNumber) (n : BitVec 16)
  /-- COPY, opcode 0x18, format RR0 (R152). -/
  | copy (x y : RegNumber)
  /-- MOVE, opcode 0x1A, format RR0 (R153). -/
  | move (x y : RegNumber)
  /-- LB, opcode 0x20, format RRR (R155). -/
  | lb (x y z : RegNumber)
  /-- LBU, opcode 0x21, format RRR (R156). -/
  | lbu (x y z : RegNumber)
  /-- LH, opcode 0x22, format RRR (R157). -/
  | lh (x y z : RegNumber)
  /-- LHU, opcode 0x23, format RRR (R158). -/
  | lhu (x y z : RegNumber)
  /-- LW, opcode 0x24, format RRR (R159). -/
  | lw (x y z : RegNumber)
  /-- LWU, opcode 0x25, format RRR (R160). -/
  | lwu (x y z : RegNumber)
  /-- LBI, opcode 0x28, format RRN (R161). -/
  | lbi (x y : RegNumber) (n : BitVec 8)
  /-- LBUI, opcode 0x29, format RRN (R162). -/
  | lbui (x y : RegNumber) (n : BitVec 8)
  /-- LHI, opcode 0x2A, format RRN (R163). -/
  | lhi (x y : RegNumber) (n : BitVec 8)
  /-- LHUI, opcode 0x2B, format RRN (R164). -/
  | lhui (x y : RegNumber) (n : BitVec 8)
  /-- LWI, opcode 0x2C, format RRN (R165). -/
  | lwi (x y : RegNumber) (n : BitVec 8)
  /-- LWUI, opcode 0x2D, format RRN (R166). -/
  | lwui (x y : RegNumber) (n : BitVec 8)
  -- Store, stack
  /-- SB, opcode 0x30, format RRR (R180). -/
  | sb (x y z : RegNumber)
  /-- SBU, opcode 0x31, format RRR (R181). -/
  | sbu (x y z : RegNumber)
  /-- SH, opcode 0x32, format RRR (R182). -/
  | sh (x y z : RegNumber)
  /-- SHU, opcode 0x33, format RRR (R183). -/
  | shu (x y z : RegNumber)
  /-- SW, opcode 0x34, format RRR (R184). -/
  | sw (x y z : RegNumber)
  /-- SWU, opcode 0x35, format RRR (R185). -/
  | swu (x y z : RegNumber)
  /-- SBI, opcode 0x38, format RRN (R186). -/
  | sbi (x y : RegNumber) (n : BitVec 8)
  /-- SBUI, opcode 0x39, format RRN (R187). -/
  | sbui (x y : RegNumber) (n : BitVec 8)
  /-- SHI, opcode 0x3A, format RRN (R188). -/
  | shi (x y : RegNumber) (n : BitVec 8)
  /-- SHUI, opcode 0x3B, format RRN (R189). -/
  | shui (x y : RegNumber) (n : BitVec 8)
  /-- SWI, opcode 0x3C, format RRN (R190). -/
  | swi (x y : RegNumber) (n : BitVec 8)
  /-- SWUI, opcode 0x3D, format RRN (R191). -/
  | swui (x y : RegNumber) (n : BitVec 8)
  /-- PUSHB, opcode 0x40, format R00 (R192). -/
  | pushb (x : RegNumber)
  /-- PUSHH, opcode 0x41, format R00 (R193). -/
  | pushh (x : RegNumber)
  /-- PUSH, opcode 0x42, format R00 (R194). -/
  | push (x : RegNumber)
  /-- POPB, opcode 0x48, format R00 (R195). -/
  | popb (x : RegNumber)
  /-- POPH, opcode 0x49, format R00 (R196). -/
  | poph (x : RegNumber)
  /-- POP, opcode 0x4A, format R00 (R197). -/
  | pop (x : RegNumber)
  -- Arithmetic
  /-- ADD, opcode 0x50, format RRR (R210). -/
  | add (x y z : RegNumber)
  /-- ADDU, opcode 0x51, format RRR (R211). -/
  | addu (x y z : RegNumber)
  /-- ADDI, opcode 0x52, format RRN (R212). -/
  | addi (x y : RegNumber) (n : BitVec 8)
  /-- ADDIU, opcode 0x53, format RRN (R213). -/
  | addiu (x y : RegNumber) (n : BitVec 8)
  /-- SUB, opcode 0x58, format RRR (R214). -/
  | sub (x y z : RegNumber)
  /-- SUBU, opcode 0x59, format RRR (R215). -/
  | subu (x y z : RegNumber)
  /-- SUBI, opcode 0x5A, format RRN (R216). -/
  | subi (x y : RegNumber) (n : BitVec 8)
  /-- SUBIU, opcode 0x5B, format RRN (R217). -/
  | subiu (x y : RegNumber) (n : BitVec 8)
  /-- MUL, opcode 0x60, format RR0 (R218). -/
  | mul (x y : RegNumber)
  /-- MULU, opcode 0x61, format RR0 (R219). -/
  | mulu (x y : RegNumber)
  /-- MULI, opcode 0x62, format RNN (R220). -/
  | muli (x : RegNumber) (n : BitVec 16)
  /-- MULIU, opcode 0x63, format RNN (R221). -/
  | muliu (x : RegNumber) (n : BitVec 16)
  /-- MULD, opcode 0x64, format RRR (R222). -/
  | muld (x y z : RegNumber)
  /-- DIV, opcode 0x68, format RR0 (R224). -/
  | div (x y : RegNumber)
  /-- DIVU, opcode 0x69, format RR0 (R225). -/
  | divu (x y : RegNumber)
  /-- DIVI, opcode 0x6A, format RNN (R226). -/
  | divi (x : RegNumber) (n : BitVec 16)
  /-- DIVIU, opcode 0x6B, format RNN (R227). -/
  | diviu (x : RegNumber) (n : BitVec 16)
  /-- DIVD, opcode 0x6C, format RRR (R228). -/
  | divd (x y z : RegNumber)
  /-- MOD, opcode 0x70, format RRR (R229). -/
  | mod (x y z : RegNumber)
  /-- MODI, opcode 0x72, format RRN (R230). -/
  | modi (x y : RegNumber) (n : BitVec 8)
  /-- ABS, opcode 0x78, format RR0 (R231). -/
  | abs (x y : RegNumber)
  /-- NEG, opcode 0x80, format RR0 (R232). -/
  | neg (x y : RegNumber)
  /-- INC, opcode 0x81, format R00 (R233). -/
  | inc (x : RegNumber)
  /-- DEC, opcode 0x82, format R00 (R234). -/
  | dec (x : RegNumber)
  -- Logic, shift, rotate
  /-- AND, opcode 0x90, format RRR (R250). -/
  | and (x y z : RegNumber)
  /-- ANDI, opcode 0x91, format RRN (R251). -/
  | andi (x y : RegNumber) (n : BitVec 8)
  /-- OR, opcode 0x92, format RRR (R252). -/
  | or (x y z : RegNumber)
  /-- ORI, opcode 0x93, format RRN (R253). -/
  | ori (x y : RegNumber) (n : BitVec 8)
  /-- XOR, opcode 0x94, format RRR (R254). -/
  | xor (x y z : RegNumber)
  /-- XORI, opcode 0x95, format RRN (R255). -/
  | xori (x y : RegNumber) (n : BitVec 8)
  /-- NOT, opcode 0x96, format RR0 (R256). -/
  | not (x y : RegNumber)
  /-- NOTI, opcode 0x97, format RNN (R257). -/
  | noti (x : RegNumber) (n : BitVec 16)
  /-- NAND, opcode 0x98, format RRR (R258). -/
  | nand (x y z : RegNumber)
  /-- NANDI, opcode 0x99, format RRN (R259). -/
  | nandi (x y : RegNumber) (n : BitVec 8)
  /-- NOR, opcode 0x9A, format RRR (R260). -/
  | nor (x y z : RegNumber)
  /-- NORI, opcode 0x9B, format RRN (R261). -/
  | nori (x y : RegNumber) (n : BitVec 8)
  /-- SHL, opcode 0xA0, format RRR (R262). -/
  | shl (x y z : RegNumber)
  /-- SHLI, opcode 0xA1, format RRN (R263). -/
  | shli (x y : RegNumber) (n : BitVec 8)
  /-- SHR, opcode 0xA2, format RRR (R264). -/
  | shr (x y z : RegNumber)
  /-- SHRI, opcode 0xA3, format RRN (R265). -/
  | shri (x y : RegNumber) (n : BitVec 8)
  /-- SHRA, opcode 0xA4, format RRR (R266). -/
  | shra (x y z : RegNumber)
  /-- SHRAI, opcode 0xA5, format RRN (R267). -/
  | shrai (x y : RegNumber) (n : BitVec 8)
  /-- ROTL, opcode 0xA8, format RRR (R268). -/
  | rotl (x y z : RegNumber)
  /-- ROTLI, opcode 0xA9, format RRN (R269). -/
  | rotli (x y : RegNumber) (n : BitVec 8)
  /-- ROTR, opcode 0xAA, format RRR (R270). -/
  | rotr (x y z : RegNumber)
  /-- ROTRI, opcode 0xAB, format RRN (R271). -/
  | rotri (x y : RegNumber) (n : BitVec 8)
  -- Compare
  /-- CMP, opcode 0xB0, format RR0 (R291). -/
  | cmp (x y : RegNumber)
  /-- CMPU, opcode 0xB1, format RR0 (R292). -/
  | cmpu (x y : RegNumber)
  /-- CMPI, opcode 0xB2, format RNN (R293). -/
  | cmpi (x : RegNumber) (n : BitVec 16)
  /-- CMPIU, opcode 0xB3, format RNN (R294). -/
  | cmpiu (x : RegNumber) (n : BitVec 16)
  -- Branch and jump
  /-- BE, opcode 0xD0, format NNN (R301). -/
  | be (n : BitVec 24)
  /-- BNE, opcode 0xD1, format NNN (R302). -/
  | bne (n : BitVec 24)
  /-- BL, opcode 0xD2, format NNN (R303). -/
  | bl (n : BitVec 24)
  /-- BLE, opcode 0xD3, format NNN (R304). -/
  | ble (n : BitVec 24)
  /-- BG, opcode 0xD4, format NNN (R305). -/
  | bg (n : BitVec 24)
  /-- BGE, opcode 0xD5, format NNN (R306). -/
  | bge (n : BitVec 24)
  /-- JMP, opcode 0xD8, format NNN (R307). -/
  | jmp (n : BitVec 24)
  /-- JMPR, opcode 0xD9, format R00 (R308). -/
  | jmpr (x : RegNumber)
  /-- GO, opcode 0xDF, format NNN (R309). -/
  | go (n : BitVec 24)
  -- Subprogram
  /-- CALL, opcode 0xE0, format NNN (R320). -/
  | call (n : BitVec 24)
  /-- RET, opcode 0xE1, format 000 (R321). -/
  | ret
  -- System
  /-- WAKE, opcode 0xF0, format NNN (R330). -/
  | wake (n : BitVec 24)
  /-- KILL, opcode 0xF8, format 000 (R331). -/
  | kill
  deriving DecidableEq, Repr

end Sys2Proof
end

