-- ==== Sys2Proof/WellFormed.lean ====
section
/-! DEFINITION. Which instructions are well formed: every register field holds a number that names a register
(30_encoding.md R115, 10_state.md R46). -/

namespace Sys2Proof

/-- The numbers that name a register: 0x01 to 0x20 and 0x33 to 0x3F (R46). -/
def RegNumber.valid (r : RegNumber) : Bool :=
  (0x01 ≤ r.toNat && r.toNat ≤ 0x20) || (0x33 ≤ r.toNat && r.toNat ≤ 0x3F)

/-- The register fields of an instruction, in the order X, Y, Z in which they are checked (R115). -/
def Instr.regFields : Instr → List RegNumber
  | .nop => []
  | .rst => []
  | .crm _ => []
  | .csm _ => []
  | .die => []
  | .rsr => []
  | .autsm => []
  | .socl => []
  | .hate => []
  | .trst => []
  | .zmb => []
  | .aliv => []
  | .set x _ => [x]
  | .setu x _ => [x]
  | .copy x y => [x, y]
  | .move x y => [x, y]
  | .lb x y z => [x, y, z]
  | .lbu x y z => [x, y, z]
  | .lh x y z => [x, y, z]
  | .lhu x y z => [x, y, z]
  | .lw x y z => [x, y, z]
  | .lwu x y z => [x, y, z]
  | .lbi x y _ => [x, y]
  | .lbui x y _ => [x, y]
  | .lhi x y _ => [x, y]
  | .lhui x y _ => [x, y]
  | .lwi x y _ => [x, y]
  | .lwui x y _ => [x, y]
  | .sb x y z => [x, y, z]
  | .sbu x y z => [x, y, z]
  | .sh x y z => [x, y, z]
  | .shu x y z => [x, y, z]
  | .sw x y z => [x, y, z]
  | .swu x y z => [x, y, z]
  | .sbi x y _ => [x, y]
  | .sbui x y _ => [x, y]
  | .shi x y _ => [x, y]
  | .shui x y _ => [x, y]
  | .swi x y _ => [x, y]
  | .swui x y _ => [x, y]
  | .pushb x => [x]
  | .pushh x => [x]
  | .push x => [x]
  | .popb x => [x]
  | .poph x => [x]
  | .pop x => [x]
  | .add x y z => [x, y, z]
  | .addu x y z => [x, y, z]
  | .addi x y _ => [x, y]
  | .addiu x y _ => [x, y]
  | .sub x y z => [x, y, z]
  | .subu x y z => [x, y, z]
  | .subi x y _ => [x, y]
  | .subiu x y _ => [x, y]
  | .mul x y => [x, y]
  | .mulu x y => [x, y]
  | .muli x _ => [x]
  | .muliu x _ => [x]
  | .muld x y z => [x, y, z]
  | .div x y => [x, y]
  | .divu x y => [x, y]
  | .divi x _ => [x]
  | .diviu x _ => [x]
  | .divd x y z => [x, y, z]
  | .mod x y z => [x, y, z]
  | .modi x y _ => [x, y]
  | .abs x y => [x, y]
  | .neg x y => [x, y]
  | .inc x => [x]
  | .dec x => [x]
  | .and x y z => [x, y, z]
  | .andi x y _ => [x, y]
  | .or x y z => [x, y, z]
  | .ori x y _ => [x, y]
  | .xor x y z => [x, y, z]
  | .xori x y _ => [x, y]
  | .not x y => [x, y]
  | .noti x _ => [x]
  | .nand x y z => [x, y, z]
  | .nandi x y _ => [x, y]
  | .nor x y z => [x, y, z]
  | .nori x y _ => [x, y]
  | .shl x y z => [x, y, z]
  | .shli x y _ => [x, y]
  | .shr x y z => [x, y, z]
  | .shri x y _ => [x, y]
  | .shra x y z => [x, y, z]
  | .shrai x y _ => [x, y]
  | .rotl x y z => [x, y, z]
  | .rotli x y _ => [x, y]
  | .rotr x y z => [x, y, z]
  | .rotri x y _ => [x, y]
  | .cmp x y => [x, y]
  | .cmpu x y => [x, y]
  | .cmpi x _ => [x]
  | .cmpiu x _ => [x]
  | .be _ => []
  | .bne _ => []
  | .bl _ => []
  | .ble _ => []
  | .bg _ => []
  | .bge _ => []
  | .jmp _ => []
  | .jmpr x => [x]
  | .go _ => []
  | .call _ => []
  | .ret => []
  | .wake _ => []
  | .kill => []

/-- A well-formed instruction: no register field holds 0x00, 0x21 to 0x32 or 0x40 to 0xFF (R115). -/
def Instr.wellFormed (i : Instr) : Bool :=
  i.regFields.all RegNumber.valid

end Sys2Proof
end

