-- ==== Sys2Proof/Decode.lean ====
section
/-! DEFINITION. The decoder and the encoder (30_encoding.md R101 to R118), and the machine names of the registers
(10_state.md R20 to R24). The opcode alone selects the instruction (R102); whether its register fields name registers
is checked when it runs, by `Machine.withReg` (R115), so that a word with a bad register number still decodes to the
instruction it spells. -/

namespace Sys2Proof

/-! ## Machine names -/

/-- The machine name of a register (R21, R24). -/
def Reg.number : Reg → RegNumber
  | .gpr i => BitVec.ofNat 8 (i.val + 1)
  | .pc => 0x33
  | .sp => 0x34
  | .fp => 0x35
  | .lin => 0x36
  | .ir => 0x37
  | .nin => 0x38
  | .stat => 0x39
  | .err => 0x3A
  | .errm => 0x3B
  | .hi => 0x3C
  | .lo => 0x3D
  | .cmp => 0x3E
  | .zero => 0x3F

/-- The special register with a machine name in 0x33 to 0x3F (R24). -/
def Reg.special (n : Nat) : Option Reg :=
  match n with
  | 0 => some .pc
  | 1 => some .sp
  | 2 => some .fp
  | 3 => some .lin
  | 4 => some .ir
  | 5 => some .nin
  | 6 => some .stat
  | 7 => some .err
  | 8 => some .errm
  | 9 => some .hi
  | 10 => some .lo
  | 11 => some .cmp
  | 12 => some .zero
  | _ => none

/-- The register a number names, if it names one (R22, R46). -/
def Reg.ofNumber (r : RegNumber) : Option Reg :=
  if h : 1 ≤ r.toNat ∧ r.toNat ≤ 32 then some (.gpr ⟨r.toNat - 1, by omega⟩)
  else if 0x33 ≤ r.toNat then Reg.special (r.toNat - 0x33)
  else none

/-! ## Bytes and words -/

/-- The instruction word made of four bytes, the first in bits 31:24 (R101). -/
def wordOfBytes (b1 b2 b3 b4 : Byte) : Word := b1 ++ b2 ++ b3 ++ b4

/-- The four bytes of an instruction word in the order of their addresses (R101). -/
def bytesOfWord (w : Word) : List Byte :=
  [w.extractLsb' 24 8, w.extractLsb' 16 8, w.extractLsb' 8 8, w.extractLsb' 0 8]

/-- The opcode of an instruction word (R102). -/
def opcodeOf (w : Word) : Byte := w.extractLsb' 24 8

/-- The fields of an instruction word that the seven formats use (R103 to R109). -/
structure Fields where
  x : Byte
  y : Byte
  z : Byte
  n16 : BitVec 16
  n24 : BitVec 24

/-- The fields of a word: X is bits 23:16, Y bits 15:8, Z (or an 8-bit N) bits 7:0, a 16-bit N bits 15:0, a 24-bit N
bits 23:0. -/
def fieldsOf (w : Word) : Fields :=
  { x := w.extractLsb' 16 8, y := w.extractLsb' 8 8, z := w.extractLsb' 0 8,
    n16 := w.extractLsb' 0 16, n24 := w.extractLsb' 0 24 }

/-! ## The opcode map (R113) -/

/-- A row of the opcode map: the opcode and the instruction it makes of a word's fields. -/
abbrev OpcodeRow := Byte × (Fields → Instr)

/-- Control. -/
def controlRows : List OpcodeRow :=
  [ (0x00, fun _ => .nop),
    (0x01, fun _ => .rst),
    (0x02, fun f => .crm f.n24),
    (0x03, fun f => .csm f.n24),
    (0x04, fun _ => .die),
    (0x05, fun _ => .rsr),
    (0x06, fun _ => .autsm),
    (0x07, fun _ => .socl),
    (0x08, fun _ => .hate),
    (0x09, fun _ => .trst),
    (0x0A, fun _ => .zmb),
    (0x0B, fun _ => .aliv) ]

/-- Set, copy, load. -/
def loadRows : List OpcodeRow :=
  [ (0x10, fun f => .set f.x f.n16),
    (0x11, fun f => .setu f.x f.n16),
    (0x18, fun f => .copy f.x f.y),
    (0x1A, fun f => .move f.x f.y),
    (0x20, fun f => .lb f.x f.y f.z),
    (0x21, fun f => .lbu f.x f.y f.z),
    (0x22, fun f => .lh f.x f.y f.z),
    (0x23, fun f => .lhu f.x f.y f.z),
    (0x24, fun f => .lw f.x f.y f.z),
    (0x25, fun f => .lwu f.x f.y f.z),
    (0x28, fun f => .lbi f.x f.y f.z),
    (0x29, fun f => .lbui f.x f.y f.z),
    (0x2A, fun f => .lhi f.x f.y f.z),
    (0x2B, fun f => .lhui f.x f.y f.z),
    (0x2C, fun f => .lwi f.x f.y f.z),
    (0x2D, fun f => .lwui f.x f.y f.z) ]

/-- Store, stack. -/
def storeRows : List OpcodeRow :=
  [ (0x30, fun f => .sb f.x f.y f.z),
    (0x31, fun f => .sbu f.x f.y f.z),
    (0x32, fun f => .sh f.x f.y f.z),
    (0x33, fun f => .shu f.x f.y f.z),
    (0x34, fun f => .sw f.x f.y f.z),
    (0x35, fun f => .swu f.x f.y f.z),
    (0x38, fun f => .sbi f.x f.y f.z),
    (0x39, fun f => .sbui f.x f.y f.z),
    (0x3A, fun f => .shi f.x f.y f.z),
    (0x3B, fun f => .shui f.x f.y f.z),
    (0x3C, fun f => .swi f.x f.y f.z),
    (0x3D, fun f => .swui f.x f.y f.z),
    (0x40, fun f => .pushb f.x),
    (0x41, fun f => .pushh f.x),
    (0x42, fun f => .push f.x),
    (0x48, fun f => .popb f.x),
    (0x49, fun f => .poph f.x),
    (0x4A, fun f => .pop f.x) ]

/-- Arithmetic. -/
def arithmeticRows : List OpcodeRow :=
  [ (0x50, fun f => .add f.x f.y f.z),
    (0x51, fun f => .addu f.x f.y f.z),
    (0x52, fun f => .addi f.x f.y f.z),
    (0x53, fun f => .addiu f.x f.y f.z),
    (0x58, fun f => .sub f.x f.y f.z),
    (0x59, fun f => .subu f.x f.y f.z),
    (0x5A, fun f => .subi f.x f.y f.z),
    (0x5B, fun f => .subiu f.x f.y f.z),
    (0x60, fun f => .mul f.x f.y),
    (0x61, fun f => .mulu f.x f.y),
    (0x62, fun f => .muli f.x f.n16),
    (0x63, fun f => .muliu f.x f.n16),
    (0x64, fun f => .muld f.x f.y f.z),
    (0x68, fun f => .div f.x f.y),
    (0x69, fun f => .divu f.x f.y),
    (0x6A, fun f => .divi f.x f.n16),
    (0x6B, fun f => .diviu f.x f.n16),
    (0x6C, fun f => .divd f.x f.y f.z),
    (0x70, fun f => .mod f.x f.y f.z),
    (0x72, fun f => .modi f.x f.y f.z),
    (0x78, fun f => .abs f.x f.y),
    (0x80, fun f => .neg f.x f.y),
    (0x81, fun f => .inc f.x),
    (0x82, fun f => .dec f.x) ]

/-- Logic, shift, rotate. -/
def logicRows : List OpcodeRow :=
  [ (0x90, fun f => .and f.x f.y f.z),
    (0x91, fun f => .andi f.x f.y f.z),
    (0x92, fun f => .or f.x f.y f.z),
    (0x93, fun f => .ori f.x f.y f.z),
    (0x94, fun f => .xor f.x f.y f.z),
    (0x95, fun f => .xori f.x f.y f.z),
    (0x96, fun f => .not f.x f.y),
    (0x97, fun f => .noti f.x f.n16),
    (0x98, fun f => .nand f.x f.y f.z),
    (0x99, fun f => .nandi f.x f.y f.z),
    (0x9A, fun f => .nor f.x f.y f.z),
    (0x9B, fun f => .nori f.x f.y f.z),
    (0xA0, fun f => .shl f.x f.y f.z),
    (0xA1, fun f => .shli f.x f.y f.z),
    (0xA2, fun f => .shr f.x f.y f.z),
    (0xA3, fun f => .shri f.x f.y f.z),
    (0xA4, fun f => .shra f.x f.y f.z),
    (0xA5, fun f => .shrai f.x f.y f.z),
    (0xA8, fun f => .rotl f.x f.y f.z),
    (0xA9, fun f => .rotli f.x f.y f.z),
    (0xAA, fun f => .rotr f.x f.y f.z),
    (0xAB, fun f => .rotri f.x f.y f.z) ]

/-- Compare. -/
def compareRows : List OpcodeRow :=
  [ (0xB0, fun f => .cmp f.x f.y),
    (0xB1, fun f => .cmpu f.x f.y),
    (0xB2, fun f => .cmpi f.x f.n16),
    (0xB3, fun f => .cmpiu f.x f.n16) ]

/-- Branch and jump. -/
def branchRows : List OpcodeRow :=
  [ (0xD0, fun f => .be f.n24),
    (0xD1, fun f => .bne f.n24),
    (0xD2, fun f => .bl f.n24),
    (0xD3, fun f => .ble f.n24),
    (0xD4, fun f => .bg f.n24),
    (0xD5, fun f => .bge f.n24),
    (0xD8, fun f => .jmp f.n24),
    (0xD9, fun f => .jmpr f.x),
    (0xDF, fun f => .go f.n24) ]

/-- Subprogram. -/
def subprogramRows : List OpcodeRow :=
  [ (0xE0, fun f => .call f.n24),
    (0xE1, fun _ => .ret) ]

/-- System. -/
def systemRows : List OpcodeRow :=
  [ (0xF0, fun f => .wake f.n24),
    (0xF8, fun _ => .kill) ]

/-- The 109 assigned opcodes (R113). -/
def opcodeRows : List OpcodeRow :=
  controlRows ++ loadRows ++ storeRows ++ arithmeticRows ++ logicRows ++
     compareRows ++ branchRows ++ subprogramRows ++ systemRows

/-- Why the decoder reads no instruction. -/
inductive DecodeError where
  /-- The opcode byte is not assigned (R114). -/
  | illegalOpcode
  /-- Fewer than four bytes were given; an instruction has four (R100). -/
  | tooShort
  deriving DecidableEq, Repr

/-- The instruction a word spells: its opcode's row applied to its fields (R118). The bytes the format does not use
are not looked at (R116). -/
def decode (w : Word) : Except DecodeError Instr :=
  match opcodeRows.find? (fun row => row.1 == opcodeOf w) with
  | some row => .ok (row.2 (fieldsOf w))
  | none => .error .illegalOpcode

/-- The instruction at the head of a list of bytes in address order, and the bytes after it. -/
def decodeBytes : List Byte → Except DecodeError (Instr × List Byte)
  | b1 :: b2 :: b3 :: b4 :: rest => (decode (wordOfBytes b1 b2 b3 b4)).map (fun i => (i, rest))
  | _ => .error .tooShort

/-- The opcode table's view of the decoder: the instruction whose bits are `w`. A word has 32 bits, the opcode in bits
31:24, and is stored with its most significant byte first (R101). -/
def decodeTableWord (nbits w : Nat) : Option Instr :=
  match decodeBytes (bytesOfWord (BitVec.ofNat 32 (w % 2 ^ nbits))) with
  | .ok (i, _) => some i
  | .error _ => none

/-! ## The encoder (R103 to R109); unused bytes are written as zeros, as D0 recommends (R103) -/

/-- Format 000: the opcode alone. -/
def format000 (op : Byte) : Word := op ++ 0#24

/-- Format NNN: opcode and a 24-bit number. -/
def formatNNN (op : Byte) (n : BitVec 24) : Word := op ++ n

/-- Format R00: opcode and one register. -/
def formatR00 (op x : Byte) : Word := op ++ x ++ 0#16

/-- Format RNN: opcode, one register and a 16-bit number. -/
def formatRNN (op x : Byte) (n : BitVec 16) : Word := op ++ x ++ n

/-- Format RR0: opcode and two registers. -/
def formatRR0 (op x y : Byte) : Word := op ++ x ++ y ++ 0#8

/-- Format RRN: opcode, two registers and an 8-bit number. -/
def formatRRN (op x y n : Byte) : Word := op ++ x ++ y ++ n

/-- Format RRR: opcode and three registers. -/
def formatRRR (op x y z : Byte) : Word := op ++ x ++ y ++ z

/-- The word of an instruction (R113). -/
def encode : Instr → Word
  | .nop => format000 0x00
  | .rst => format000 0x01
  | .crm n => formatNNN 0x02 n
  | .csm n => formatNNN 0x03 n
  | .die => format000 0x04
  | .rsr => format000 0x05
  | .autsm => format000 0x06
  | .socl => format000 0x07
  | .hate => format000 0x08
  | .trst => format000 0x09
  | .zmb => format000 0x0A
  | .aliv => format000 0x0B
  | .set x n => formatRNN 0x10 x n
  | .setu x n => formatRNN 0x11 x n
  | .copy x y => formatRR0 0x18 x y
  | .move x y => formatRR0 0x1A x y
  | .lb x y z => formatRRR 0x20 x y z
  | .lbu x y z => formatRRR 0x21 x y z
  | .lh x y z => formatRRR 0x22 x y z
  | .lhu x y z => formatRRR 0x23 x y z
  | .lw x y z => formatRRR 0x24 x y z
  | .lwu x y z => formatRRR 0x25 x y z
  | .lbi x y n => formatRRN 0x28 x y n
  | .lbui x y n => formatRRN 0x29 x y n
  | .lhi x y n => formatRRN 0x2A x y n
  | .lhui x y n => formatRRN 0x2B x y n
  | .lwi x y n => formatRRN 0x2C x y n
  | .lwui x y n => formatRRN 0x2D x y n
  | .sb x y z => formatRRR 0x30 x y z
  | .sbu x y z => formatRRR 0x31 x y z
  | .sh x y z => formatRRR 0x32 x y z
  | .shu x y z => formatRRR 0x33 x y z
  | .sw x y z => formatRRR 0x34 x y z
  | .swu x y z => formatRRR 0x35 x y z
  | .sbi x y n => formatRRN 0x38 x y n
  | .sbui x y n => formatRRN 0x39 x y n
  | .shi x y n => formatRRN 0x3A x y n
  | .shui x y n => formatRRN 0x3B x y n
  | .swi x y n => formatRRN 0x3C x y n
  | .swui x y n => formatRRN 0x3D x y n
  | .pushb x => formatR00 0x40 x
  | .pushh x => formatR00 0x41 x
  | .push x => formatR00 0x42 x
  | .popb x => formatR00 0x48 x
  | .poph x => formatR00 0x49 x
  | .pop x => formatR00 0x4A x
  | .add x y z => formatRRR 0x50 x y z
  | .addu x y z => formatRRR 0x51 x y z
  | .addi x y n => formatRRN 0x52 x y n
  | .addiu x y n => formatRRN 0x53 x y n
  | .sub x y z => formatRRR 0x58 x y z
  | .subu x y z => formatRRR 0x59 x y z
  | .subi x y n => formatRRN 0x5A x y n
  | .subiu x y n => formatRRN 0x5B x y n
  | .mul x y => formatRR0 0x60 x y
  | .mulu x y => formatRR0 0x61 x y
  | .muli x n => formatRNN 0x62 x n
  | .muliu x n => formatRNN 0x63 x n
  | .muld x y z => formatRRR 0x64 x y z
  | .div x y => formatRR0 0x68 x y
  | .divu x y => formatRR0 0x69 x y
  | .divi x n => formatRNN 0x6A x n
  | .diviu x n => formatRNN 0x6B x n
  | .divd x y z => formatRRR 0x6C x y z
  | .mod x y z => formatRRR 0x70 x y z
  | .modi x y n => formatRRN 0x72 x y n
  | .abs x y => formatRR0 0x78 x y
  | .neg x y => formatRR0 0x80 x y
  | .inc x => formatR00 0x81 x
  | .dec x => formatR00 0x82 x
  | .and x y z => formatRRR 0x90 x y z
  | .andi x y n => formatRRN 0x91 x y n
  | .or x y z => formatRRR 0x92 x y z
  | .ori x y n => formatRRN 0x93 x y n
  | .xor x y z => formatRRR 0x94 x y z
  | .xori x y n => formatRRN 0x95 x y n
  | .not x y => formatRR0 0x96 x y
  | .noti x n => formatRNN 0x97 x n
  | .nand x y z => formatRRR 0x98 x y z
  | .nandi x y n => formatRRN 0x99 x y n
  | .nor x y z => formatRRR 0x9A x y z
  | .nori x y n => formatRRN 0x9B x y n
  | .shl x y z => formatRRR 0xA0 x y z
  | .shli x y n => formatRRN 0xA1 x y n
  | .shr x y z => formatRRR 0xA2 x y z
  | .shri x y n => formatRRN 0xA3 x y n
  | .shra x y z => formatRRR 0xA4 x y z
  | .shrai x y n => formatRRN 0xA5 x y n
  | .rotl x y z => formatRRR 0xA8 x y z
  | .rotli x y n => formatRRN 0xA9 x y n
  | .rotr x y z => formatRRR 0xAA x y z
  | .rotri x y n => formatRRN 0xAB x y n
  | .cmp x y => formatRR0 0xB0 x y
  | .cmpu x y => formatRR0 0xB1 x y
  | .cmpi x n => formatRNN 0xB2 x n
  | .cmpiu x n => formatRNN 0xB3 x n
  | .be n => formatNNN 0xD0 n
  | .bne n => formatNNN 0xD1 n
  | .bl n => formatNNN 0xD2 n
  | .ble n => formatNNN 0xD3 n
  | .bg n => formatNNN 0xD4 n
  | .bge n => formatNNN 0xD5 n
  | .jmp n => formatNNN 0xD8 n
  | .jmpr x => formatR00 0xD9 x
  | .go n => formatNNN 0xDF n
  | .call n => formatNNN 0xE0 n
  | .ret => format000 0xE1
  | .wake n => formatNNN 0xF0 n
  | .kill => format000 0xF8

/-- The four bytes of an instruction in the order of their addresses (R101). -/
def encodeBytes (i : Instr) : List Byte := bytesOfWord (encode i)

end Sys2Proof
end

