-- ==== Sys2Proof/Machine/Bus.lean ====
section
/-! DEFINITION. What the bus does at power-up with the parameters of a realisation: the length of the memory's range,
the list of ports, and the bytes of the bus table (20_memory.md R66 to R72, 70_reset_and_hazards.md R386). -/

namespace Sys2Proof

/-- The number of bytes of an access (R63). -/
def Width.bytes : Width → Nat
  | .byte => 1
  | .half => 2
  | .word => 4

/-- The bit of ERR a cause sets (R345). -/
def ErrBits.bit (b : ErrBits) : ErrorCause → Fin 32
  | .illegalOpcode => b.illegalOpcode
  | .badRegister => b.badRegister
  | .writeProtected => b.writeProtected
  | .divideByZero => b.divideByZero
  | .spRange => b.spRange
  | .busError => b.busError
  | .badOperand => b.badOperand
  | .fetchError => b.fetchError

/-- The eight causes, in the order of the table of R345. -/
def ErrorCause.all : List ErrorCause :=
  [.illegalOpcode, .badRegister, .writeProtected, .divideByZero, .spRange, .busError, .badOperand, .fetchError]

/-- The registers no operand may write (R24, R36). -/
def Reg.writeProtected : Reg → Bool
  | .pc | .lin | .ir | .nin | .zero => true
  | _ => false

/-- The mask of ERR that a cause sets (R345). -/
def ErrBits.mask (b : ErrBits) (e : ErrorCause) : Word := 1#32 <<< (b.bit e).val

/-- The three refusals that HATE and TRST switch (R360). -/
def ErrorCause.isProtection : ErrorCause → Bool
  | .badRegister | .writeProtected | .spRange => true
  | _ => false

/-- The type number of the memory port (R70). -/
def memoryType : Byte := 0

/-- The ports with a fixed need that every bus has: terminal output and keyboard input, 64 bytes each (R70). -/
def minimalPorts : List PortNeed := [⟨1, 64⟩, ⟨2, 64⟩]

/-- A port put into a list that is in the order of the type numbers, behind those of its own type (R66). -/
def insertByType (p : PortNeed) : List PortNeed → List PortNeed
  | [] => [p]
  | q :: qs => if p.type.toNat < q.type.toNat then p :: q :: qs else q :: insertByType p qs

/-- The ports other than the memory in the order in which their ranges follow it (R66). -/
def Params.otherPorts (p : Params) : List PortNeed :=
  minimalPorts ++ p.extraPorts.foldl (fun acc q => insertByType q acc) []

/-- The bytes the ports other than the memory need together (R72). -/
def Params.fixedNeed (p : Params) : Nat := (p.otherPorts.map PortNeed.length).sum

/-- `MEM_SIZE`: the memory's capacity, shortened until the other ports fit below 2^31 (R72). -/
def Params.memSize (p : Params) : Nat := min p.memCapacity (2 ^ 31 - p.fixedNeed)

/-- `MEM_MAX`, the largest memory address (R7). -/
def Params.memMax (p : Params) : Nat := p.memSize - 1

/-- Consecutive ranges from an address on, without gaps (R66). -/
def layoutPorts (start : Nat) : List PortNeed → List Port
  | [] => []
  | q :: qs => ⟨q.type, start, q.length⟩ :: layoutPorts (start + q.length) qs

/-- The list of ports with their ranges that the bus builds at power-up: the memory from address 0, then the other
ports in type order (R66, R386). -/
def Params.enumeratePorts (p : Params) : List Port :=
  ⟨memoryType, 0, p.memSize⟩ :: layoutPorts p.memSize p.otherPorts

/-- The parameters the spec allows: at least one instruction fits into the memory and the fixed needs fit below 2^31
(R7, R72), the table's count byte holds the number of ports (R67), the further ports have type numbers of their own
(R70), and ERR_BITS is injective (D9). -/
def Params.valid (p : Params) : Bool :=
  4 ≤ p.memSize && p.memSize + p.fixedNeed ≤ 2 ^ 31 && p.extraPorts.length ≤ 252
    && p.extraPorts.all (fun q => 3 ≤ q.type.toNat)
    && decide (ErrorCause.all.map p.errBits.bit).Nodup

/-! ## The bus table -/

/-- The size of the table region in bytes (R67). -/
def tableSize : Nat := 2306

/-- Byte `j` of a 4-byte number, byte 0 the most significant one. -/
def numberByte (v j : Nat) : Byte := BitVec.ofNat 8 (v / 256 ^ (3 - j))

/-- Byte `j` of a port's 9-byte entry: start address, length, type, the most significant byte of a number nearest to
-1 (R68). -/
def Port.entryByte (p : Port) (j : Nat) : Byte :=
  if j < 4 then numberByte p.start j
  else if j < 8 then numberByte p.length (j - 4)
  else p.type

/-- Byte k of the bus's internal memory, the one at address -k: the count at 1, entry i from 2 + 9i on, zero behind
the last entry (R67 to R71, R79). -/
def tableByte (ports : List Port) (k : Nat) : Byte :=
  if k = 1 then BitVec.ofNat 8 ports.length
  else match ports[(k - 2) / 9]? with
    | some p => p.entryByte ((k - 2) % 9)
    | none => 0

end Sys2Proof
end

