-- ==== Sys2Proof/Machine/State.lean ====
section
/-! DEFINITION. The machine's state as plain data, the reasons a step can stop, and the state after power-up
(10_state.md R20 to R53, 70_reset_and_hazards.md R380 to R389). -/

namespace Sys2Proof.Machine

/-- `power` (R30): whether steps are taken. -/
inductive Power where
  /-- The cycle runs. -/
  | running
  /-- D0's "Wartezustand": the next instruction could not be fetched, or an error under `ERR_HALTS` (R353, R343). -/
  | waiting
  /-- Switched off by DIE (R134). -/
  | off
  deriving DecidableEq, Repr, Inhabited

/-- `runmode` (R29): normal mode or single-step mode. -/
inductive RunMode where
  | normal
  | single
  deriving DecidableEq, Repr, Inhabited

/-- Why the machine stops with a fault. -/
inductive Fault where
  /-- Raised by `signalError` for BadRegister, WriteProtected and SpRange while `protectOn` is false: the spec leaves
  the behaviour unspecified and tells a model to stop (R360, 93_implementation_defined.md U4). Safe: nothing can be
  proved about the state such an instruction reaches. -/
  | protectionOff (cause : ErrorCause)
  deriving DecidableEq, Repr

/-- Why the model gives an instruction no meaning. -/
inductive Refusal where
  /-- Raised by an arm of `exec` whose instruction has no meaning yet. Safe. No arm does so. -/
  | notModelled (mnemonic : String)
  deriving DecidableEq, Repr

/-- What an instruction or a step answers. -/
abbrev Answer (S : Type) := Host.Outcome S Fault Refusal

/-- The bytes of the memory port: (address, byte) pairs, addresses strictly rising, no byte equal to `unwrittenByte`
(`Memory.wf`). An address that is not listed reads as `unwrittenByte`. -/
abbrev Memory := List Host.Cell

/-- What a memory byte reads as that neither the power-up image nor a store has set: zero, the convention of R387
(DESIGN CHOICE, unsafe; notes/assumptions/6.md). -/
def unwrittenByte : Byte := 0

/-- The state of the machine. The register ZERO has no field: it reads as zero always and nothing writes it (R45). -/
structure State where
  /-- R1 to R32 (R21). `gpr[i]` is R(i+1). -/
  gpr : Vector Word 32
  /-- Address of the next instruction (R25). -/
  pc : Word
  /-- Stack pointer: address of the top entry (R26). -/
  sp : Word
  /-- Frame pointer (R27). -/
  fp : Word
  /-- The word of the instruction executed last (R37). -/
  lin : Word
  /-- The word of the instruction being executed (R38). -/
  ir : Word
  /-- The word that follows it in memory (R39). -/
  nin : Word
  /-- The pattern last written to STAT; operand reads do not return it (R40). -/
  stat : Word
  /-- Error register, sticky (R41, R344). -/
  err : Word
  /-- Additional information on the last error (R41). -/
  errm : Word
  /-- High half of a product, quotient of a division (R43). -/
  hi : Word
  /-- Low half of a product, remainder of a division (R43). -/
  lo : Word
  /-- Result of the last comparison (R44). -/
  cmp : Word
  /-- R30. -/
  power : Power
  /-- R29. -/
  runmode : RunMode
  /-- Communication with the bus is on: AUTSM clears it, SOCL sets it (R31). -/
  busOn : Bool
  /-- The protection mechanisms are on: HATE sets it, TRST clears it (R32). -/
  protectOn : Bool
  /-- All effects are off but ALIV's: ZMB sets it, ALIV clears it (R33). -/
  zombie : Bool
  /-- WAKE has its effect: KILL clears it (R34). -/
  osOn : Bool
  /-- The operand of the last CSM (R34). -/
  sysmode : BitVec 24
  /-- The memory behind the memory port (R85, R387). -/
  mem : Memory
  /-- The bus's internal list of ports with their ranges, from which the table at the negative addresses is read
  (R66 to R71, R386). -/
  busPorts : List Port
  /-- The calls the bus made to the devices, oldest first; the writes among them are the output events (R80, R366). -/
  deviceTrace : List DeviceEvent
  /-- The action codes of the WAKEs that reached the default handler, oldest first (R330, R366). -/
  wakeTrace : List (BitVec 24)
  /-- The parameters of this realisation (R7); nothing changes them. -/
  params : Params
  /-- The MODEL's own: the number of the current fetch or execution, each of which has a number of its own. The free
values are read through it, so that none is met twice in a run (notes/assumptions/12.md). -/
  tick : Nat
  deriving DecidableEq, Repr, Inhabited

/-- The machine right after power-up with these parameters and this memory image (R48 to R53, R380 to R388). The two
traces are empty and the counter is zero: the run begins here. -/
def State.powerUp (p : Params) (image : Memory) : State :=
  { gpr := Vector.replicate 32 0
    pc := 0
    sp := BitVec.ofNat 32 p.memMax
    fp := p.resetSpecials.fp
    lin := p.resetSpecials.lin
    ir := p.resetSpecials.ir
    nin := p.resetSpecials.nin
    stat := p.resetSpecials.stat
    err := 0
    errm := p.resetSpecials.errm
    hi := p.resetSpecials.hi
    lo := p.resetSpecials.lo
    cmp := p.resetSpecials.cmp
    power := .running
    runmode := .normal
    busOn := true
    protectOn := true
    zombie := false
    osOn := true
    sysmode := 0
    mem := image
    busPorts := p.enumeratePorts
    deviceTrace := []
    wakeTrace := []
    params := p
    tick := 0 }

/-- The machine right after reset: power-up with the default parameters and no program (R53). -/
def State.reset : State := State.powerUp Config.params []

end Sys2Proof.Machine

/-- FREE VALUE (R330, D27): the operating system that the environment supplies, any function of the action code and the
machine state. It is asked where the parameter `WAKE_HANDLER` is `environment` (notes/assumptions/9.md). -/
opaque Sys2Proof.Config.wakeHandler : BitVec 24 → Sys2Proof.Machine.State → Sys2Proof.Machine.State
end

