-- ==== Sys2Proof/Machine/Operands.lean ====
section
/-! DEFINITION. The operand forms: how an instruction's fields become values (30_encoding.md R110, R111), the exact
integer arithmetic between operands and results (00_scope.md R9, R10, R13), and the effective address
(20_memory.md R84). -/

namespace Sys2Proof.Machine

/-- `sext_N`: the 32-bit pattern with the same signed value (R10). -/
def sext {w : Nat} (v : BitVec w) : Word := v.signExtend 32

/-- `zext_N`: the pattern extended with zeros on the left (R10). -/
def zext {w : Nat} (v : BitVec w) : Word := v.setWidth 32

/-- `signed(v)`: the two's-complement reading (R9). -/
def signed (v : Word) : Int := v.toInt

/-- `unsigned(v)`, as an integer (R9). -/
def unsigned (v : Word) : Int := (v.toNat : Int)

/-- `trunc32(z)`: the integer reduced modulo 2^32 (R10). -/
def trunc32 (z : Int) : Word := BitVec.ofInt 32 z

/-- `trunc64(z)`: the integer reduced modulo 2^64 (43_arithmetic.md). -/
def trunc64 (z : Int) : BitVec 64 := BitVec.ofInt 64 z

/-- The effective address of a load or store: base plus offset modulo 2^32, the same for the signed and the unsigned
forms (R84, D5). -/
def effectiveAddress (base offset : Word) : Word := trunc32 (unsigned base + unsigned offset)

/-- The target of a taken relative jump, from the already incremented PC and the offset in instructions (R300). -/
def relativeTarget (pc : Word) (offset : Int) : Word := trunc32 (unsigned pc + 4 * offset)

/-- The bytes of X that a load of width n writes are its low n bytes; the others keep their value (R154 (c)). -/
def mergeLow (n : Width) (old v : Word) : Word :=
  match n with
  | .byte => old.extractLsb' 8 24 ++ v.extractLsb' 0 8
  | .half => old.extractLsb' 16 16 ++ v.extractLsb' 0 16
  | .word => v

/-- The low n bytes of a value, extended with zeros (R75). -/
def lowBytes (n : Width) (v : Word) : Word := mergeLow n 0 v

/-! ## Results of the arithmetic, logic and shift instructions -/

/-- The quotient rounded toward zero (R223 (a)). -/
def tdiv (a b : Int) : Int := a.tdiv b

/-- The remainder that belongs to `tdiv`: a = b * tdiv a b + trem a b (R223 (b)). -/
def trem (a b : Int) : Int := a - b * tdiv a b

/-- The quotient of two unsigned numbers, rounded down (R225). -/
def udiv (a b : Int) : Int := a / b

/-- The remainder that belongs to `udiv` (R225). -/
def urem (a b : Int) : Int := a - b * udiv a b

/-- The absolute value; that of -2^31 is the pattern itself (R231, R235). -/
def absolute (v : Word) : Word := if signed v ≥ 0 then v else trunc32 (-signed v)

/-- SHL by an amount that is not reduced (R262, R272). -/
def shiftLeft (v : Word) (k : Nat) : Word := if k ≥ 32 then 0 else trunc32 (unsigned v * 2 ^ k)

/-- SHR by an amount that is not reduced (R264, R272). -/
def shiftRight (v : Word) (k : Nat) : Word := if k ≥ 32 then 0 else trunc32 (unsigned v / 2 ^ k)

/-- SHRA: the vacated places take the sign bit (R266, R272). -/
def shiftRightArithmetic (v : Word) (k : Nat) : Word := trunc32 (signed v / 2 ^ min k 31)

/-- ROTL by k mod 32 places (R268, R272). -/
def rotateLeft (v : Word) (k : Nat) : Word := v.rotateLeft (k % 32)

/-- ROTR by k mod 32 places (R270, R272). -/
def rotateRight (v : Word) (k : Nat) : Word := v.rotateRight (k % 32)

end Sys2Proof.Machine
end

