-- ==== Sys2Proof/Machine/Flags.lean ====
section
/-! DEFINITION. The one condition the machine keeps, the register CMP: how a compare sets it (45_compare.md R290) and
how a branch tests it (46_branch.md R300 (d)). There is no other flag (10_state.md R44). -/

namespace Sys2Proof.Machine

/-- `cmp3(a, b)`: -1, 0 or +1 (R290). -/
def cmp3 (a b : Int) : Word :=
  if a < b then 0xFFFFFFFF
  else if a = b then 0
  else 1

/-- BE's condition (R301). -/
def condEqual (cmp : Word) : Bool := signed cmp = 0

/-- BNE's condition (R302). -/
def condNotEqual (cmp : Word) : Bool := signed cmp ≠ 0

/-- BL's condition (R303). -/
def condLess (cmp : Word) : Bool := signed cmp < 0

/-- BLE's condition (R304). -/
def condLessEqual (cmp : Word) : Bool := signed cmp ≤ 0

/-- BG's condition (R305). -/
def condGreater (cmp : Word) : Bool := signed cmp > 0

/-- BGE's condition (R306). -/
def condGreaterEqual (cmp : Word) : Bool := signed cmp ≥ 0

end Sys2Proof.Machine
end

