-- ==== Sys2Proof/Machine/Ops.lean ====
section
/-! DEFINITION. The named operations over registers, memory and the bus, reporting an error, and the shapes the
instructions share: register check, bus guard, destination check, load, store, push, pop (10_state.md R35, R36;
20_memory.md R73 to R79; 60_exceptions.md R343 to R354). -/

namespace Sys2Proof.Machine

/-! ## Memory -/

/-- The byte at an address of the memory port. -/
def Memory.read : Memory → Nat → Byte
  | [], _ => unwrittenByte
  | (k, b) :: m, a => if a = k then b else Memory.read m a

/-- A cell in front of a list, left out where its byte is what an unlisted address reads as. -/
def Memory.cons (a : Nat) (b : Byte) (m : Memory) : Memory :=
  if b = unwrittenByte then m else (a, b) :: m

/-- The memory with one byte set, in canonical form. -/
def Memory.write : Memory → Nat → Byte → Memory
  | [], a, b => Memory.cons a b []
  | (k, c) :: m, a, b =>
    if a < k then Memory.cons a b ((k, c) :: m)
    else if a = k then Memory.cons a b m
    else (k, c) :: Memory.write m a b

/-- The canonical form from a least address on: addresses strictly rising, no unwritten byte listed. -/
def Memory.wfFrom (low : Nat) : Memory → Bool
  | [] => true
  | (k, b) :: m => low ≤ k && b ≠ unwrittenByte && Memory.wfFrom (k + 1) m

/-- The canonical form. -/
def Memory.wf (m : Memory) : Bool := Memory.wfFrom 0 m

/-- Every listed address lies below a bound. -/
def Memory.below (bound : Nat) (m : Memory) : Bool := m.all (fun c => c.1 < bound)

/-- The bytes of a memory port of `size` bytes, in canonical form. -/
def Memory.clip (size : Nat) : Memory → Memory
  | [] => []
  | (k, b) :: m => if k < size then Memory.write (Memory.clip size m) k b else Memory.clip size m

/-- The bytes of a list stored from an address on, one after the other. -/
def Memory.store (m : Memory) (a : Nat) : List Byte → Memory
  | [] => m
  | b :: bs => Memory.store (Memory.write m a b) (a + 1) bs

/-- The n bytes that `byteAt` gives at offsets 0, 1, .., the first one most significant (R73, R74). -/
def assemble (byteAt : Nat → Byte) : Width → Word
  | .byte => zext (byteAt 0)
  | .half => zext (byteAt 0 ++ byteAt 1)
  | .word => wordOfBytes (byteAt 0) (byteAt 1) (byteAt 2) (byteAt 3)

/-- The low n bytes of a value, the most significant one first (R73, R75). -/
def bytesOf (v : Word) : Width → List Byte
  | .byte => [v.extractLsb' 0 8]
  | .half => [v.extractLsb' 8 8, v.extractLsb' 0 8]
  | .word => bytesOfWord v

/-! ## The bus -/

/-- The port whose range holds all n bytes from a positive address on (R74). -/
def findPort (ports : List Port) (a n : Nat) : Option Port :=
  ports.find? (fun p => decide (p.start ≤ a ∧ a + n ≤ p.start + p.length))

/-- A device port's answer to a read of n bytes: a free value, recorded in the trace (R80). -/
def deviceRead (s : State) (p : Port) (offset : Nat) (n : Width) : Word × State :=
  let v := lowBytes n (Config.deviceRead s.tick s.deviceTrace p.type offset n)
  (v, { s with deviceTrace := s.deviceTrace ++ [.read p.type offset n v] })

/-- A read at address -k, from the bus table (R74, R79; the alternatives of `NEG_ACCESS` are those of D4). -/
def tableRead (s : State) (k : Nat) (n : Width) : Option Word :=
  match s.params.negAccess with
  | .mirrored =>
    if k + n.bytes - 1 ≤ tableSize then some (assemble (fun j => tableByte s.busPorts (k + j)) n) else none
  | .ascending =>
    if k ≤ tableSize ∧ n.bytes ≤ k then some (assemble (fun j => tableByte s.busPorts (k - j)) n) else none
  | .fault =>
    if k ≤ tableSize ∧ n = .byte then some (assemble (fun j => tableByte s.busPorts (k + j)) n) else none

/-- `MemRead(a, n)` (R74): the value read and the state after the read, or nothing where the bus cannot serve it.
A read of the memory or of the table changes nothing (R91). -/
def memRead (s : State) (a : Word) (n : Width) : Option (Word × State) :=
  if 0 ≤ signed a then
    if a.toNat + n.bytes - 1 > 2 ^ 31 - 1 then none
    else match findPort s.busPorts a.toNat n.bytes with
      | none => none
      | some p =>
        if p.type = memoryType then some (assemble (fun j => Memory.read s.mem (a.toNat + j)) n, s)
        else some (deviceRead s p (a.toNat - p.start) n)
  else (tableRead s (-signed a).toNat n).map (fun v => (v, s))

/-- `MemWrite(a, n, v)` (R75): the state after the write, or nothing where the bus cannot serve it. -/
def memWrite (s : State) (a : Word) (n : Width) (v : Word) : Option State :=
  if signed a < 0 then none
  else if a.toNat + n.bytes - 1 > 2 ^ 31 - 1 then none
  else match findPort s.busPorts a.toNat n.bytes with
    | none => none
    | some p =>
      if p.type = memoryType then some { s with mem := Memory.store s.mem a.toNat (bytesOf v n) }
      else some { s with
        deviceTrace := s.deviceTrace ++ [.write p.type (a.toNat - p.start) n (lowBytes n v)] }

/-! ## Registers -/

/-- The pattern a register holds; ZERO holds zero (R45). -/
def State.content (s : State) : Reg → Word
  | .gpr i => s.gpr[i]
  | .pc => s.pc
  | .sp => s.sp
  | .fp => s.fp
  | .lin => s.lin
  | .ir => s.ir
  | .nin => s.nin
  | .stat => s.stat
  | .err => s.err
  | .errm => s.errm
  | .hi => s.hi
  | .lo => s.lo
  | .cmp => s.cmp
  | .zero => 0

/-- `x[i]` read as a source operand through an operand field (R35): what the register holds, but any value for STAT
(R40, D33). -/
def State.operand (s : State) (slot : Slot) (r : Reg) : Word :=
  if r = .stat then Config.statRead s.tick slot s.stat else s.content r

/-- `x[i] <- v` without any check; nothing changes ZERO (R45). -/
def State.setReg (s : State) (r : Reg) (v : Word) : State :=
  match r with
  | .gpr i => { s with gpr := s.gpr.set i v }
  | .pc => { s with pc := v }
  | .sp => { s with sp := v }
  | .fp => { s with fp := v }
  | .lin => { s with lin := v }
  | .ir => { s with ir := v }
  | .nin => { s with nin := v }
  | .stat => { s with stat := v }
  | .err => { s with err := v }
  | .errm => { s with errm := v }
  | .hi => { s with hi := v }
  | .lo => { s with lo := v }
  | .cmp => { s with cmp := v }
  | .zero => s

/-! ## Errors: the machine has no traps, an error marks ERR and ERRM and the run goes on (R341, R343) -/

/-- `raise E(info)` on the state before the instruction (R343): the cause's bit is set in ERR, ERRM takes the
information, and under `ERR_HALTS` the machine waits. Nothing else changes, so nothing of the instruction remains. -/
def State.raise (s : State) (e : ErrorCause) (info : Word) : State :=
  { s with
    err := s.err ||| s.params.errBits.mask e
    errm := info
    power := if s.params.errHalts then .waiting else s.power }

/-- An instruction meets an error: it is reported (R343), but for a protection violation while the protection
mechanisms are off, whose behaviour the spec leaves unspecified (R360, U4; notes/assumptions/7.md). -/
def signalError (s : State) (e : ErrorCause) (info : Word) : Answer State :=
  if e.isProtection && !s.protectOn then .fault (.protectionOff e)
  else .next (s.raise e info)

/-- `FetchError` ends the run; LIN, IR, PC and NIN keep their values (R353). -/
def State.fetchError (s : State) : State :=
  { s.raise .fetchError s.pc with power := .waiting }

/-! ## The checks, in the order of R354 -/

/-- DECODE: the register a field names, or `BadRegister` (R115, R346). -/
def withReg (s : State) (x : RegNumber) (k : Reg → Answer State) : Answer State :=
  match Reg.ofNumber x with
  | some r => k r
  | none => signalError s .badRegister s.ir

/-- Two register fields, checked in the order X, Y. -/
def withReg2 (s : State) (x y : RegNumber) (k : Reg → Reg → Answer State) : Answer State :=
  withReg s x fun X => withReg s y fun Y => k X Y

/-- Three register fields, checked in the order X, Y, Z. -/
def withReg3 (s : State) (x y z : RegNumber) (k : Reg → Reg → Reg → Answer State) : Answer State :=
  withReg s x fun X => withReg s y fun Y => withReg s z fun Z => k X Y Z

/-- The bus-enable guard: while the bus is off the instruction does nothing at all (R31). -/
def withBus (s : State) (k : Answer State) : Answer State :=
  if s.busOn then k else .next s

/-- The destination check, which precedes every operand value (R36 (1), R349). -/
def withWritable (s : State) (r : Reg) (k : Answer State) : Answer State :=
  if r.writeProtected then signalError s .writeProtected (zext r.number) else k

/-- The range check of a value about to be written: only SP has one (R36 (2), R347). -/
def withSpRange (s : State) (r : Reg) (v : Word) (k : Answer State) : Answer State :=
  if r = .sp ∧ v.toNat > s.params.memMax then signalError s .spRange v else k

/-! ## The shapes the instructions share -/

/-- An operand write (R36): destination check, SP range, then the write. -/
def writeOperand (s : State) (X : Reg) (v : Word) : Answer State :=
  withWritable s X (withSpRange s X v (.next (s.setReg X v)))

/-- A load of width n (R154): bus guard, destination check, the read, the SP range of the merged value, the write. -/
def loadInto (s : State) (X : Reg) (ea : Word) (n : Width) : Answer State :=
  withBus s <| withWritable s X <|
    match memRead s ea n with
    | none => signalError s .busError ea
    | some (v, s1) =>
      withSpRange s X (mergeLow n (s.operand .x X) v)
        (.next (s1.setReg X (mergeLow n (s.operand .x X) v)))

/-- A store of width n (R198): bus guard, then the write. No register changes. -/
def storeFrom (s : State) (X : Reg) (ea : Word) (n : Width) : Answer State :=
  withBus s <|
    match memWrite s ea n (s.operand .x X) with
    | none => signalError s .busError ea
    | some s1 => .next s1

/-- The stack pointer after a push of width n (R199 (a)). -/
def pushTop (s : State) (n : Width) : Word := trunc32 (unsigned s.sp - n.bytes)

/-- A push of width n (R199): bus guard, SP range, then the write of X at the new SP. X is read after SP has changed,
so that `PUSH SP` stores the decremented SP (R194). -/
def pushFrom (s : State) (X : Reg) (n : Width) : Answer State :=
  withBus s <| withSpRange s .sp (pushTop s n) <|
    match memWrite { s with sp := pushTop s n } (pushTop s n) n
        (State.operand { s with sp := pushTop s n } .x X) with
    | none => signalError s .busError (pushTop s n)
    | some s1 => .next s1

/-- SP moved up by n in `s1` and range-checked; an error is reported on `s`, the state before the instruction. -/
def raiseSp (s s1 : State) (n : Width) : Answer State :=
  withSpRange s .sp (trunc32 (unsigned s1.sp + n.bytes))
    (.next { s1 with sp := trunc32 (unsigned s1.sp + n.bytes) })

/-- A pop of width n (R199): bus guard, destination check, the read at SP, the SP range of X, then SP + n with the SP
that the write of X has left (`POP SP`, R197). -/
def popInto (s : State) (X : Reg) (n : Width) : Answer State :=
  withBus s <| withWritable s X <|
    match memRead s s.sp n with
    | none => signalError s .busError s.sp
    | some (v, s1) =>
      withSpRange s X (mergeLow n (s.operand .x X) v)
        (raiseSp s (s1.setReg X (mergeLow n (s.operand .x X) v)) n)

/-- HI and LO as the two halves of a 64-bit product (R43, R218). -/
def writeProduct (s : State) (p : BitVec 64) : Answer State :=
  .next { s with hi := p.extractLsb' 32 32, lo := p.extractLsb' 0 32 }

/-- HI and LO as quotient and remainder (R43). -/
def State.setQuotient (s : State) (q r : Int) : State := { s with hi := trunc32 q, lo := trunc32 r }

/-- A division by b that writes HI and LO (R223 (c), R224). -/
def writeQuotient (s : State) (b q r : Int) : Answer State :=
  if b = 0 then signalError s .divideByZero s.ir else .next (s.setQuotient q r)

/-- A division by b whose one result goes to X: destination check, divisor, SP range (R223 (e)). -/
def writeDivided (s : State) (X : Reg) (b v : Int) : Answer State :=
  withWritable s X <|
    if b = 0 then signalError s .divideByZero s.ir
    else withSpRange s X (trunc32 v) (.next (s.setReg X (trunc32 v)))

/-- MOD and MODI: the unsigned remainder goes to X; HI and LO keep their values (R229), but under `MOD_WRITES_HILO`
they take quotient and remainder as after DIVU, before X is written (D16). -/
def writeRemainder (s : State) (X : Reg) (a b : Int) : Answer State :=
  withWritable s X <|
    if b = 0 then signalError s .divideByZero s.ir
    else withSpRange s X (trunc32 (urem a b)) <|
      .next ((if s.params.modWritesHiLo then s.setQuotient (udiv a b) (urem a b) else s).setReg X
        (trunc32 (urem a b)))

/-- A relative jump taken where the condition holds (R300). -/
def jumpIf (s : State) (taken : Bool) (offset : Int) : Answer State :=
  .next (if taken then { s with pc := relativeTarget s.pc offset } else s)

/-- A compare (R290). -/
def writeCmp (s : State) (a b : Int) : Answer State := .next { s with cmp := cmp3 a b }

/-- The warm restart of RSR: registers, mode flags and the bus's list as at power-up; memory, devices and the host's
traces stay (R135, R389, D28). -/
def State.restart (s : State) : State :=
  { State.powerUp s.params s.mem with
    deviceTrace := s.deviceTrace, wakeTrace := s.wakeTrace, tick := s.tick }

/-- RST: the 32 general registers are zero (R131). -/
def State.clearGpr (s : State) : State := { s with gpr := Vector.replicate 32 0 }

/-- The default `WAKE_HANDLER`: the machine state stays, the code joins the host's trace (R330, D27). -/
def defaultWakeHandler (code : BitVec 24) (s : State) : State :=
  { s with wakeTrace := s.wakeTrace ++ [code] }

/-- The machine `s` in the machine state `u` that an operating system gives back: registers, mode flags and the bytes of
the memory port are those of `u`. What no program and no operating system can change stays: the parameters (R7), the
bus's list (R386), the host's traces (R366) and the model's counter. -/
def State.handedBack (s u : State) : State :=
  { u with
    mem := Memory.clip s.params.memSize u.mem
    busPorts := s.busPorts
    deviceTrace := s.deviceTrace
    wakeTrace := s.wakeTrace
    params := s.params
    tick := s.tick }

/-- The `WAKE_HANDLER` that the environment supplies (R330, D27). -/
def environmentWakeHandler (code : BitVec 24) (s : State) : State :=
  s.handedBack (Config.wakeHandler code s)

/-- The function that the parameter `WAKE_HANDLER` names (R330, D27). -/
def wakeHandlerOf : WakeHandler → BitVec 24 → State → State
  | .recording => defaultWakeHandler
  | .environment => environmentWakeHandler

end Sys2Proof.Machine
end

