-- ==== Sys2Proof/Machine/Arithmetic.lean ====
section
/-! DEFINITION. Addition, subtraction and the one-operand arithmetic (43_arithmetic.md R210 to R217, R231 to R235). -/

namespace Sys2Proof.Machine

/-- ADD (R210). Y + Z modulo 2^32 (R235). -/
def execAdd (x y z : RegNumber) (s : State) : Answer State :=
  withReg3 s x y z fun X Y Z =>
    writeOperand s X (trunc32 (signed (s.operand .y Y) + signed (s.operand .z Z)))

/-- ADDU (R211). Y + Z modulo 2^32 (R235). -/
def execAddu (x y z : RegNumber) (s : State) : Answer State :=
  withReg3 s x y z fun X Y Z =>
    writeOperand s X (trunc32 (unsigned (s.operand .y Y) + unsigned (s.operand .z Z)))

/-- ADDI (R212). Y + N, N signed. -/
def execAddi (x y : RegNumber) (n : BitVec 8) (s : State) : Answer State :=
  withReg2 s x y fun X Y =>
    writeOperand s X (trunc32 (signed (s.operand .y Y) + signed (sext n)))

/-- ADDIU (R213). Y + N, N unsigned. -/
def execAddiu (x y : RegNumber) (n : BitVec 8) (s : State) : Answer State :=
  withReg2 s x y fun X Y =>
    writeOperand s X (trunc32 (unsigned (s.operand .y Y) + unsigned (zext n)))

/-- SUB (R214). Y - Z modulo 2^32 (R235). -/
def execSub (x y z : RegNumber) (s : State) : Answer State :=
  withReg3 s x y z fun X Y Z =>
    writeOperand s X (trunc32 (signed (s.operand .y Y) - signed (s.operand .z Z)))

/-- SUBU (R215). Y - Z modulo 2^32 (R235). -/
def execSubu (x y z : RegNumber) (s : State) : Answer State :=
  withReg3 s x y z fun X Y Z =>
    writeOperand s X (trunc32 (unsigned (s.operand .y Y) - unsigned (s.operand .z Z)))

/-- SUBI (R216). Y - N, N signed. -/
def execSubi (x y : RegNumber) (n : BitVec 8) (s : State) : Answer State :=
  withReg2 s x y fun X Y =>
    writeOperand s X (trunc32 (signed (s.operand .y Y) - signed (sext n)))

/-- SUBIU (R217). Y - N, N unsigned. -/
def execSubiu (x y : RegNumber) (n : BitVec 8) (s : State) : Answer State :=
  withReg2 s x y fun X Y =>
    writeOperand s X (trunc32 (unsigned (s.operand .y Y) - unsigned (zext n)))

/-- ABS (R231). The absolute value of Y. -/
def execAbs (x y : RegNumber) (s : State) : Answer State :=
  withReg2 s x y fun X Y => writeOperand s X (absolute (s.operand .y Y))

/-- NEG (R232). -Y modulo 2^32. -/
def execNeg (x y : RegNumber) (s : State) : Answer State :=
  withReg2 s x y fun X Y => writeOperand s X (trunc32 (-signed (s.operand .y Y)))

/-- INC (R233). X + 1 modulo 2^32. -/
def execInc (x : RegNumber) (s : State) : Answer State :=
  withReg s x fun X => writeOperand s X (trunc32 (unsigned (s.operand .x X) + 1))

/-- DEC (R234). X - 1 modulo 2^32. -/
def execDec (x : RegNumber) (s : State) : Answer State :=
  withReg s x fun X => writeOperand s X (trunc32 (unsigned (s.operand .x X) - 1))

end Sys2Proof.Machine
end

