-- ==== Sys2Proof/Machine/Branch.lean ====
section
/-! DEFINITION. Branches and jumps: they write PC and nothing else (46_branch.md R300 to R310). PC has already advanced. -/

namespace Sys2Proof.Machine

/-- BE (R301). Skips N instructions where CMP is zero. -/
def execBe (n : BitVec 24) (s : State) : Answer State :=
  jumpIf s (condEqual s.cmp) (signed (sext n))

/-- BNE (R302). Skips N instructions where CMP is not zero. -/
def execBne (n : BitVec 24) (s : State) : Answer State :=
  jumpIf s (condNotEqual s.cmp) (signed (sext n))

/-- BL (R303). Skips N instructions where CMP is below zero. -/
def execBl (n : BitVec 24) (s : State) : Answer State :=
  jumpIf s (condLess s.cmp) (signed (sext n))

/-- BLE (R304). Skips N instructions where CMP is zero or below. -/
def execBle (n : BitVec 24) (s : State) : Answer State :=
  jumpIf s (condLessEqual s.cmp) (signed (sext n))

/-- BG (R305). Skips N instructions where CMP is above zero. -/
def execBg (n : BitVec 24) (s : State) : Answer State :=
  jumpIf s (condGreater s.cmp) (signed (sext n))

/-- BGE (R306). Skips N instructions where CMP is zero or above. -/
def execBge (n : BitVec 24) (s : State) : Answer State :=
  jumpIf s (condGreaterEqual s.cmp) (signed (sext n))

/-- JMP (R307). Skips N instructions; N is signed unless `JMP_SIGNED` is false (D18). -/
def execJmp (n : BitVec 24) (s : State) : Answer State :=
  jumpIf s true (if s.params.jmpSigned then signed (sext n) else unsigned (zext n))

/-- JMPR (R308). Skips as many instructions as X holds. -/
def execJmpr (x : RegNumber) (s : State) : Answer State :=
  withReg s x fun X => jumpIf s true (signed (s.operand .x X))

/-- GO (R309). PC takes the absolute byte address. -/
def execGo (n : BitVec 24) (s : State) : Answer State :=
  .next { s with pc := zext n }

end Sys2Proof.Machine
end

