-- ==== Sys2Proof/Machine/Compare.lean ====
section
/-! DEFINITION. The compares: they write CMP and nothing else (45_compare.md R290 to R294). -/

namespace Sys2Proof.Machine

/-- CMP (R291). Signed comparison of X with Y. -/
def execCmp (x y : RegNumber) (s : State) : Answer State :=
  withReg2 s x y fun X Y => writeCmp s (signed (s.operand .x X)) (signed (s.operand .y Y))

/-- CMPU (R292). Unsigned comparison of X with Y. -/
def execCmpu (x y : RegNumber) (s : State) : Answer State :=
  withReg2 s x y fun X Y => writeCmp s (unsigned (s.operand .x X)) (unsigned (s.operand .y Y))

/-- CMPI (R293). Signed comparison of X with N. -/
def execCmpi (x : RegNumber) (n : BitVec 16) (s : State) : Answer State :=
  withReg s x fun X => writeCmp s (signed (s.operand .x X)) (signed (sext n))

/-- CMPIU (R294). Unsigned comparison of X with N. -/
def execCmpiu (x : RegNumber) (n : BitVec 16) (s : State) : Answer State :=
  withReg s x fun X => writeCmp s (unsigned (s.operand .x X)) (unsigned (zext n))

end Sys2Proof.Machine
end

