-- ==== Sys2Proof/Machine/Control.lean ====
section
/-! DEFINITION. The control instructions (40_control.md R130 to R142). None has a register operand and none touches the bus. -/

namespace Sys2Proof.Machine

/-- NOP (R130). Nothing happens. -/
def execNop (s : State) : Answer State :=
  .next s

/-- RST (R131). All general registers become zero; nothing else changes. -/
def execRst (s : State) : Answer State :=
  .next s.clearGpr

/-- CRM (R132). 0 selects normal mode, 1 single-step mode; any other operand is `BadOperand` (R352). -/
def execCrm (n : BitVec 24) (s : State) : Answer State :=
  if n = 0 then .next { s with runmode := .normal }
  else if n = 1 then .next { s with runmode := .single }
  else signalError s .badOperand s.ir

/-- CSM (R133). The operand is recorded; no rule reads it (D22). -/
def execCsm (n : BitVec 24) (s : State) : Answer State :=
  .next { s with sysmode := n }

/-- DIE (R134). The machine is switched off. -/
def execDie (s : State) : Answer State :=
  .next { s with power := .off }

/-- RSR (R135). A warm restart: registers, mode flags and the bus table as at power-up, memory unchanged (R389). -/
def execRsr (s : State) : Answer State :=
  .next s.restart

/-- AUTSM (R136). The bus is switched off (R31). -/
def execAutsm (s : State) : Answer State :=
  .next { s with busOn := false }

/-- SOCL (R137). The bus is switched on. -/
def execSocl (s : State) : Answer State :=
  .next { s with busOn := true }

/-- HATE (R138). The protection mechanisms are switched on (R360). -/
def execHate (s : State) : Answer State :=
  .next { s with protectOn := true }

/-- TRST (R139). The protection mechanisms are switched off (R360). -/
def execTrst (s : State) : Answer State :=
  .next { s with protectOn := false }

/-- ZMB (R140). All effects are switched off but ALIV's (R33). -/
def execZmb (s : State) : Answer State :=
  .next { s with zombie := true }

/-- ALIV (R141). Effects are switched on again; the one instruction that runs while `zombie` is true. -/
def execAliv (s : State) : Answer State :=
  .next { s with zombie := false }

end Sys2Proof.Machine
end

