-- ==== Sys2Proof/Machine/Load.lean ====
section
/-! DEFINITION. The twelve loads (41_set_copy_load.md R154 to R167). -/

namespace Sys2Proof.Machine

/-- LB (R155). The byte at Y + Z, into the low bytes of X. -/
def execLb (x y z : RegNumber) (s : State) : Answer State :=
  withReg3 s x y z fun X Y Z =>
    loadInto s X (effectiveAddress (s.operand .y Y) (s.operand .z Z)) .byte

/-- LBU (R156). The byte at Y + Z, the registers read as unsigned: the same address and the same effect (R154 (d)). -/
def execLbu (x y z : RegNumber) (s : State) : Answer State :=
  withReg3 s x y z fun X Y Z =>
    loadInto s X (effectiveAddress (s.operand .y Y) (s.operand .z Z)) .byte

/-- LH (R157). The half at Y + Z, into the low bytes of X. -/
def execLh (x y z : RegNumber) (s : State) : Answer State :=
  withReg3 s x y z fun X Y Z =>
    loadInto s X (effectiveAddress (s.operand .y Y) (s.operand .z Z)) .half

/-- LHU (R158). The half at Y + Z, the registers read as unsigned: the same address and the same effect (R154 (d)). -/
def execLhu (x y z : RegNumber) (s : State) : Answer State :=
  withReg3 s x y z fun X Y Z =>
    loadInto s X (effectiveAddress (s.operand .y Y) (s.operand .z Z)) .half

/-- LW (R159). The word at Y + Z, into X. -/
def execLw (x y z : RegNumber) (s : State) : Answer State :=
  withReg3 s x y z fun X Y Z =>
    loadInto s X (effectiveAddress (s.operand .y Y) (s.operand .z Z)) .word

/-- LWU (R160). The word at Y + Z, the registers read as unsigned: the same address and the same effect (R154 (d)). -/
def execLwu (x y z : RegNumber) (s : State) : Answer State :=
  withReg3 s x y z fun X Y Z =>
    loadInto s X (effectiveAddress (s.operand .y Y) (s.operand .z Z)) .word

/-- LBI (R161). The byte at Y + N, N signed, into the low bytes of X. -/
def execLbi (x y : RegNumber) (n : BitVec 8) (s : State) : Answer State :=
  withReg2 s x y fun X Y =>
    loadInto s X (effectiveAddress (s.operand .y Y) (sext n)) .byte

/-- LBUI (R162). The byte at Y + N, N unsigned, into the low bytes of X. -/
def execLbui (x y : RegNumber) (n : BitVec 8) (s : State) : Answer State :=
  withReg2 s x y fun X Y =>
    loadInto s X (effectiveAddress (s.operand .y Y) (zext n)) .byte

/-- LHI (R163). The half at Y + N, N signed, into the low bytes of X. -/
def execLhi (x y : RegNumber) (n : BitVec 8) (s : State) : Answer State :=
  withReg2 s x y fun X Y =>
    loadInto s X (effectiveAddress (s.operand .y Y) (sext n)) .half

/-- LHUI (R164). The half at Y + N, N unsigned, into the low bytes of X. -/
def execLhui (x y : RegNumber) (n : BitVec 8) (s : State) : Answer State :=
  withReg2 s x y fun X Y =>
    loadInto s X (effectiveAddress (s.operand .y Y) (zext n)) .half

/-- LWI (R165). The word at Y + N, N signed, into X. -/
def execLwi (x y : RegNumber) (n : BitVec 8) (s : State) : Answer State :=
  withReg2 s x y fun X Y =>
    loadInto s X (effectiveAddress (s.operand .y Y) (sext n)) .word

/-- LWUI (R166). The word at Y + N, N unsigned, into X. -/
def execLwui (x y : RegNumber) (n : BitVec 8) (s : State) : Answer State :=
  withReg2 s x y fun X Y =>
    loadInto s X (effectiveAddress (s.operand .y Y) (zext n)) .word

end Sys2Proof.Machine
end

