-- ==== Sys2Proof/Machine/Logic.lean ====
section
/-! DEFINITION. Bitwise logic (44_logic.md R250 to R261). -/

namespace Sys2Proof.Machine

/-- AND (R250). X takes and of Y and Z, bit by bit. -/
def execAnd (x y z : RegNumber) (s : State) : Answer State :=
  withReg3 s x y z fun X Y Z =>
    writeOperand s X (s.operand .y Y &&& s.operand .z Z)

/-- ANDI (R251). X takes and of Y and the zero-extended N. -/
def execAndi (x y : RegNumber) (n : BitVec 8) (s : State) : Answer State :=
  withReg2 s x y fun X Y =>
    writeOperand s X (s.operand .y Y &&& zext n)

/-- OR (R252). X takes or of Y and Z, bit by bit. -/
def execOr (x y z : RegNumber) (s : State) : Answer State :=
  withReg3 s x y z fun X Y Z =>
    writeOperand s X (s.operand .y Y ||| s.operand .z Z)

/-- ORI (R253). X takes or of Y and the zero-extended N. -/
def execOri (x y : RegNumber) (n : BitVec 8) (s : State) : Answer State :=
  withReg2 s x y fun X Y =>
    writeOperand s X (s.operand .y Y ||| zext n)

/-- XOR (R254). X takes exclusive or of Y and Z, bit by bit. -/
def execXor (x y z : RegNumber) (s : State) : Answer State :=
  withReg3 s x y z fun X Y Z =>
    writeOperand s X (s.operand .y Y ^^^ s.operand .z Z)

/-- XORI (R255). X takes exclusive or of Y and the zero-extended N. -/
def execXori (x y : RegNumber) (n : BitVec 8) (s : State) : Answer State :=
  withReg2 s x y fun X Y =>
    writeOperand s X (s.operand .y Y ^^^ zext n)

/-- NAND (R258). X takes the complement of and of Y and Z, bit by bit. -/
def execNand (x y z : RegNumber) (s : State) : Answer State :=
  withReg3 s x y z fun X Y Z =>
    writeOperand s X (~~~(s.operand .y Y &&& s.operand .z Z))

/-- NANDI (R259). X takes the complement of and of Y and the zero-extended N. -/
def execNandi (x y : RegNumber) (n : BitVec 8) (s : State) : Answer State :=
  withReg2 s x y fun X Y =>
    writeOperand s X (~~~(s.operand .y Y &&& zext n))

/-- NOR (R260). X takes the complement of or of Y and Z, bit by bit. -/
def execNor (x y z : RegNumber) (s : State) : Answer State :=
  withReg3 s x y z fun X Y Z =>
    writeOperand s X (~~~(s.operand .y Y ||| s.operand .z Z))

/-- NORI (R261). X takes the complement of or of Y and the zero-extended N. -/
def execNori (x y : RegNumber) (n : BitVec 8) (s : State) : Answer State :=
  withReg2 s x y fun X Y =>
    writeOperand s X (~~~(s.operand .y Y ||| zext n))

/-- NOT (R256). X takes the complement of Y. -/
def execNot (x y : RegNumber) (s : State) : Answer State :=
  withReg2 s x y fun X Y => writeOperand s X (~~~(s.operand .y Y))

/-- NOTI (R257). X takes the complement of the zero-extended N; all 16 bits count (D41). -/
def execNoti (x : RegNumber) (n : BitVec 16) (s : State) : Answer State :=
  withReg s x fun X => writeOperand s X (~~~(zext n))

end Sys2Proof.Machine
end

