-- ==== Sys2Proof/Machine/MulDiv.lean ====
section
/-! DEFINITION. Multiplication, division and remainder (43_arithmetic.md R218 to R230, R236). -/

namespace Sys2Proof.Machine

/-- MUL (R218). HI and LO take the 64-bit product of the signed X and Y. -/
def execMul (x y : RegNumber) (s : State) : Answer State :=
  withReg2 s x y fun X Y =>
    writeProduct s (trunc64 (signed (s.operand .x X) * signed (s.operand .y Y)))

/-- MULU (R219). HI and LO take the 64-bit product of the unsigned X and Y. -/
def execMulu (x y : RegNumber) (s : State) : Answer State :=
  withReg2 s x y fun X Y =>
    writeProduct s (trunc64 (unsigned (s.operand .x X) * unsigned (s.operand .y Y)))

/-- MULI (R220). HI and LO take the 64-bit product of the signed X and N. -/
def execMuli (x : RegNumber) (n : BitVec 16) (s : State) : Answer State :=
  withReg s x fun X =>
    writeProduct s (trunc64 (signed (s.operand .x X) * signed (sext n)))

/-- MULIU (R221). HI and LO take the 64-bit product of the unsigned X and N. -/
def execMuliu (x : RegNumber) (n : BitVec 16) (s : State) : Answer State :=
  withReg s x fun X =>
    writeProduct s (trunc64 (unsigned (s.operand .x X) * unsigned (zext n)))

/-- MULD (R222). X takes the low 32 bits of Y * Z; HI and LO keep their values. -/
def execMuld (x y z : RegNumber) (s : State) : Answer State :=
  withReg3 s x y z fun X Y Z =>
    writeOperand s X (trunc32 (unsigned (s.operand .y Y) * unsigned (s.operand .z Z)))

/-- DIV (R224). HI takes the quotient of the signed X and Y, LO the remainder. -/
def execDiv (x y : RegNumber) (s : State) : Answer State :=
  withReg2 s x y fun X Y =>
    writeQuotient s (signed (s.operand .y Y))
      (tdiv (signed (s.operand .x X)) (signed (s.operand .y Y))) (trem (signed (s.operand .x X)) (signed (s.operand .y Y)))

/-- DIVU (R225). HI takes the quotient of the unsigned X and Y, LO the remainder. -/
def execDivu (x y : RegNumber) (s : State) : Answer State :=
  withReg2 s x y fun X Y =>
    writeQuotient s (unsigned (s.operand .y Y))
      (udiv (unsigned (s.operand .x X)) (unsigned (s.operand .y Y))) (urem (unsigned (s.operand .x X)) (unsigned (s.operand .y Y)))

/-- DIVI (R226). HI takes the quotient of the signed X and N, LO the remainder. -/
def execDivi (x : RegNumber) (n : BitVec 16) (s : State) : Answer State :=
  withReg s x fun X =>
    writeQuotient s (signed (sext n))
      (tdiv (signed (s.operand .x X)) (signed (sext n))) (trem (signed (s.operand .x X)) (signed (sext n)))

/-- DIVIU (R227). HI takes the quotient of the unsigned X and N, LO the remainder. -/
def execDiviu (x : RegNumber) (n : BitVec 16) (s : State) : Answer State :=
  withReg s x fun X =>
    writeQuotient s (unsigned (zext n))
      (udiv (unsigned (s.operand .x X)) (unsigned (zext n))) (urem (unsigned (s.operand .x X)) (unsigned (zext n)))

/-- DIVD (R228). X takes the quotient of the signed Y and Z; HI and LO keep their values. -/
def execDivd (x y z : RegNumber) (s : State) : Answer State :=
  withReg3 s x y z fun X Y Z =>
    writeDivided s X (signed (s.operand .z Z)) (tdiv (signed (s.operand .y Y)) (signed (s.operand .z Z)))

/-- MOD (R229). X takes the remainder of the unsigned Y and Z. -/
def execMod (x y z : RegNumber) (s : State) : Answer State :=
  withReg3 s x y z fun X Y Z =>
    writeRemainder s X (unsigned (s.operand .y Y)) (unsigned (s.operand .z Z))

/-- MODI (R230). X takes the remainder of the unsigned Y and N. -/
def execModi (x y : RegNumber) (n : BitVec 8) (s : State) : Answer State :=
  withReg2 s x y fun X Y =>
    writeRemainder s X (unsigned (s.operand .y Y)) (unsigned (zext n))

end Sys2Proof.Machine
end

