-- ==== Sys2Proof/Machine/SetCopy.lean ====
section
/-! DEFINITION. Constants and register moves (41_set_copy_load.md R150 to R153). -/

namespace Sys2Proof.Machine

/-- SET (R150). X takes the sign-extended number. -/
def execSet (x : RegNumber) (n : BitVec 16) (s : State) : Answer State :=
  withReg s x fun X => writeOperand s X (sext n)

/-- SETU (R151). X takes the zero-extended number. -/
def execSetu (x : RegNumber) (n : BitVec 16) (s : State) : Answer State :=
  withReg s x fun X => writeOperand s X (zext n)

/-- COPY (R152). X takes the content of Y. -/
def execCopy (x y : RegNumber) (s : State) : Answer State :=
  withReg2 s x y fun X Y => writeOperand s X (s.operand .y Y)

/-- MOVE (R153). X takes the content of Y and Y becomes zero; both are destinations, X checked before Y (R349). -/
def execMove (x y : RegNumber) (s : State) : Answer State :=
  withReg2 s x y fun X Y =>
    withWritable s X <| withWritable s Y <| withSpRange s X (s.operand .y Y) <|
      .next ((s.setReg X (s.operand .y Y)).setReg Y 0)

end Sys2Proof.Machine
end

