-- ==== Sys2Proof/Machine/Shift.lean ====
section
/-! DEFINITION. Shifts and rotates (44_logic.md R262 to R272). -/

namespace Sys2Proof.Machine

/-- SHL (R262). X takes Y shifted left, filled with zeros by the unsigned content of Z. -/
def execShl (x y z : RegNumber) (s : State) : Answer State :=
  withReg3 s x y z fun X Y Z =>
    writeOperand s X (shiftLeft (s.operand .y Y) (s.operand .z Z).toNat)

/-- SHLI (R263). X takes Y shifted left, filled with zeros by N. -/
def execShli (x y : RegNumber) (n : BitVec 8) (s : State) : Answer State :=
  withReg2 s x y fun X Y =>
    writeOperand s X (shiftLeft (s.operand .y Y) (zext n).toNat)

/-- SHR (R264). X takes Y shifted right, filled with zeros by the unsigned content of Z. -/
def execShr (x y z : RegNumber) (s : State) : Answer State :=
  withReg3 s x y z fun X Y Z =>
    writeOperand s X (shiftRight (s.operand .y Y) (s.operand .z Z).toNat)

/-- SHRI (R265). X takes Y shifted right, filled with zeros by N. -/
def execShri (x y : RegNumber) (n : BitVec 8) (s : State) : Answer State :=
  withReg2 s x y fun X Y =>
    writeOperand s X (shiftRight (s.operand .y Y) (zext n).toNat)

/-- SHRA (R266). X takes Y shifted right, filled with the sign by the unsigned content of Z. -/
def execShra (x y z : RegNumber) (s : State) : Answer State :=
  withReg3 s x y z fun X Y Z =>
    writeOperand s X (shiftRightArithmetic (s.operand .y Y) (s.operand .z Z).toNat)

/-- SHRAI (R267). X takes Y shifted right, filled with the sign by N. -/
def execShrai (x y : RegNumber) (n : BitVec 8) (s : State) : Answer State :=
  withReg2 s x y fun X Y =>
    writeOperand s X (shiftRightArithmetic (s.operand .y Y) (zext n).toNat)

/-- ROTL (R268). X takes Y rotated left by the unsigned content of Z. -/
def execRotl (x y z : RegNumber) (s : State) : Answer State :=
  withReg3 s x y z fun X Y Z =>
    writeOperand s X (rotateLeft (s.operand .y Y) (s.operand .z Z).toNat)

/-- ROTLI (R269). X takes Y rotated left by N. -/
def execRotli (x y : RegNumber) (n : BitVec 8) (s : State) : Answer State :=
  withReg2 s x y fun X Y =>
    writeOperand s X (rotateLeft (s.operand .y Y) (zext n).toNat)

/-- ROTR (R270). X takes Y rotated right by the unsigned content of Z. -/
def execRotr (x y z : RegNumber) (s : State) : Answer State :=
  withReg3 s x y z fun X Y Z =>
    writeOperand s X (rotateRight (s.operand .y Y) (s.operand .z Z).toNat)

/-- ROTRI (R271). X takes Y rotated right by N. -/
def execRotri (x y : RegNumber) (n : BitVec 8) (s : State) : Answer State :=
  withReg2 s x y fun X Y =>
    writeOperand s X (rotateRight (s.operand .y Y) (zext n).toNat)

end Sys2Proof.Machine
end

