-- ==== Sys2Proof/Machine/Stack.lean ====
section
/-! DEFINITION. The six stack instructions (42_store_stack.md R192 to R200). -/

namespace Sys2Proof.Machine

/-- PUSHB (R192). SP goes down by 1 and the low byte of X is stored there. -/
def execPushb (x : RegNumber) (s : State) : Answer State :=
  withReg s x fun X => pushFrom s X .byte

/-- PUSHH (R193). SP goes down by 2 and the low half of X is stored there. -/
def execPushh (x : RegNumber) (s : State) : Answer State :=
  withReg s x fun X => pushFrom s X .half

/-- PUSH (R194). SP goes down by 4 and X is stored there. -/
def execPush (x : RegNumber) (s : State) : Answer State :=
  withReg s x fun X => pushFrom s X .word

/-- POPB (R195). The byte at SP goes to the low byte of X and SP goes up by 1. -/
def execPopb (x : RegNumber) (s : State) : Answer State :=
  withReg s x fun X => popInto s X .byte

/-- POPH (R196). The half at SP goes to the low half of X and SP goes up by 2. -/
def execPoph (x : RegNumber) (s : State) : Answer State :=
  withReg s x fun X => popInto s X .half

/-- POP (R197). The word at SP goes to X and SP goes up by 4. -/
def execPop (x : RegNumber) (s : State) : Answer State :=
  withReg s x fun X => popInto s X .word

end Sys2Proof.Machine
end

