-- ==== Sys2Proof/Machine/Store.lean ====
section
/-! DEFINITION. The twelve stores (42_store_stack.md R180 to R191, R198). -/

namespace Sys2Proof.Machine

/-- SB (R180). The low byte of X to Y + Z. -/
def execSb (x y z : RegNumber) (s : State) : Answer State :=
  withReg3 s x y z fun X Y Z =>
    storeFrom s X (effectiveAddress (s.operand .y Y) (s.operand .z Z)) .byte

/-- SBU (R181). The low byte of X to Y + Z, the registers read as unsigned: the same address and the same effect (R198 (c)). -/
def execSbu (x y z : RegNumber) (s : State) : Answer State :=
  withReg3 s x y z fun X Y Z =>
    storeFrom s X (effectiveAddress (s.operand .y Y) (s.operand .z Z)) .byte

/-- SH (R182). The low half of X to Y + Z. -/
def execSh (x y z : RegNumber) (s : State) : Answer State :=
  withReg3 s x y z fun X Y Z =>
    storeFrom s X (effectiveAddress (s.operand .y Y) (s.operand .z Z)) .half

/-- SHU (R183). The low half of X to Y + Z, the registers read as unsigned: the same address and the same effect (R198 (c)). -/
def execShu (x y z : RegNumber) (s : State) : Answer State :=
  withReg3 s x y z fun X Y Z =>
    storeFrom s X (effectiveAddress (s.operand .y Y) (s.operand .z Z)) .half

/-- SW (R184). X to Y + Z. -/
def execSw (x y z : RegNumber) (s : State) : Answer State :=
  withReg3 s x y z fun X Y Z =>
    storeFrom s X (effectiveAddress (s.operand .y Y) (s.operand .z Z)) .word

/-- SWU (R185). X to Y + Z, the registers read as unsigned: the same address and the same effect (R198 (c)). -/
def execSwu (x y z : RegNumber) (s : State) : Answer State :=
  withReg3 s x y z fun X Y Z =>
    storeFrom s X (effectiveAddress (s.operand .y Y) (s.operand .z Z)) .word

/-- SBI (R186). The low byte of X to Y + N, N signed. -/
def execSbi (x y : RegNumber) (n : BitVec 8) (s : State) : Answer State :=
  withReg2 s x y fun X Y =>
    storeFrom s X (effectiveAddress (s.operand .y Y) (sext n)) .byte

/-- SBUI (R187). The low byte of X to Y + N, N unsigned. -/
def execSbui (x y : RegNumber) (n : BitVec 8) (s : State) : Answer State :=
  withReg2 s x y fun X Y =>
    storeFrom s X (effectiveAddress (s.operand .y Y) (zext n)) .byte

/-- SHI (R188). The low half of X to Y + N, N signed. -/
def execShi (x y : RegNumber) (n : BitVec 8) (s : State) : Answer State :=
  withReg2 s x y fun X Y =>
    storeFrom s X (effectiveAddress (s.operand .y Y) (sext n)) .half

/-- SHUI (R189). The low half of X to Y + N, N unsigned. -/
def execShui (x y : RegNumber) (n : BitVec 8) (s : State) : Answer State :=
  withReg2 s x y fun X Y =>
    storeFrom s X (effectiveAddress (s.operand .y Y) (zext n)) .half

/-- SWI (R190). X to Y + N, N signed. -/
def execSwi (x y : RegNumber) (n : BitVec 8) (s : State) : Answer State :=
  withReg2 s x y fun X Y =>
    storeFrom s X (effectiveAddress (s.operand .y Y) (sext n)) .word

/-- SWUI (R191). X to Y + N, N unsigned. -/
def execSwui (x y : RegNumber) (n : BitVec 8) (s : State) : Answer State :=
  withReg2 s x y fun X Y =>
    storeFrom s X (effectiveAddress (s.operand .y Y) (zext n)) .word

end Sys2Proof.Machine
end

