-- ==== Sys2Proof/Machine/Subprogram.lean ====
section
/-! DEFINITION. CALL and RET in the reading that the parameter `CALLRET` names, of which the spec admits one
(47_subprogram.md R320 to R322, decision D21). -/

namespace Sys2Proof.Machine

/-- CALL (R320). Pushes PC, the address behind the CALL, and continues at the absolute byte address. -/
def execCall (n : BitVec 24) (s : State) : Answer State :=
  match s.params.callRet with
  | .stackAbsolute =>
    withBus s <| withSpRange s .sp (pushTop s .word) <|
      match memWrite { s with sp := pushTop s .word } (pushTop s .word) .word s.pc with
      | none => signalError s .busError (pushTop s .word)
      | some s1 => .next { s1 with pc := zext n }

/-- RET (R321). Pops the word at SP and continues there. -/
def execRet (s : State) : Answer State :=
  match s.params.callRet with
  | .stackAbsolute =>
    withBus s <|
      match memRead s s.sp .word with
      | none => signalError s .busError s.sp
      | some (t, s1) => raiseSp s { s1 with pc := t } .word

end Sys2Proof.Machine
end

