-- ==== Sys2Proof/Machine/System.lean ====
section
/-! DEFINITION. WAKE and KILL (48_system.md R330, R331). -/

namespace Sys2Proof.Machine

/-- WAKE with the parameter `WAKE_HANDLER`, what the operating system does with the action code and the machine
state, called once with PC behind the WAKE (R330). -/
def execWakeWith (handler : BitVec 24 → State → State) (n : BitVec 24) (s : State) : Answer State :=
  .next (if s.osOn then handler n s else s)

/-- WAKE (R330). The call to the operating system outside the machine, the one that the parameter `WAKE_HANDLER` names
(D27; notes/assumptions/9.md); nothing happens after KILL. -/
def execWake (n : BitVec 24) (s : State) : Answer State :=
  execWakeWith (wakeHandlerOf s.params.wakeHandler) n s

/-- KILL (R331). WAKE loses its effect until power-up or RSR. -/
def execKill (s : State) : Answer State :=
  .next { s with osOn := false }

end Sys2Proof.Machine
end

