-- ==== Sys2Proof/Machine/Dispatch.lean ====
section
/-! DEFINITION. Which meaning each instruction has: one arm per constructor of Instr, in the order of the opcode table.
`exec i s` is the EXECUTE of 10_state.md R42 (with the register-number check of DECODE): PC has already advanced, IR holds
the word, and the zombie guard has been passed (`Machine.runCycle`). -/

namespace Sys2Proof.Machine

def exec (i : Instr) (s : State) : Host.Outcome State Fault Refusal :=
  match i with
  | .nop => Sys2Proof.Machine.execNop s
  | .rst => Sys2Proof.Machine.execRst s
  | .crm n => Sys2Proof.Machine.execCrm n s
  | .csm n => Sys2Proof.Machine.execCsm n s
  | .die => Sys2Proof.Machine.execDie s
  | .rsr => Sys2Proof.Machine.execRsr s
  | .autsm => Sys2Proof.Machine.execAutsm s
  | .socl => Sys2Proof.Machine.execSocl s
  | .hate => Sys2Proof.Machine.execHate s
  | .trst => Sys2Proof.Machine.execTrst s
  | .zmb => Sys2Proof.Machine.execZmb s
  | .aliv => Sys2Proof.Machine.execAliv s
  | .set x n => Sys2Proof.Machine.execSet x n s
  | .setu x n => Sys2Proof.Machine.execSetu x n s
  | .copy x y => Sys2Proof.Machine.execCopy x y s
  | .move x y => Sys2Proof.Machine.execMove x y s
  | .lb x y z => Sys2Proof.Machine.execLb x y z s
  | .lbu x y z => Sys2Proof.Machine.execLbu x y z s
  | .lh x y z => Sys2Proof.Machine.execLh x y z s
  | .lhu x y z => Sys2Proof.Machine.execLhu x y z s
  | .lw x y z => Sys2Proof.Machine.execLw x y z s
  | .lwu x y z => Sys2Proof.Machine.execLwu x y z s
  | .lbi x y n => Sys2Proof.Machine.execLbi x y n s
  | .lbui x y n => Sys2Proof.Machine.execLbui x y n s
  | .lhi x y n => Sys2Proof.Machine.execLhi x y n s
  | .lhui x y n => Sys2Proof.Machine.execLhui x y n s
  | .lwi x y n => Sys2Proof.Machine.execLwi x y n s
  | .lwui x y n => Sys2Proof.Machine.execLwui x y n s
  | .sb x y z => Sys2Proof.Machine.execSb x y z s
  | .sbu x y z => Sys2Proof.Machine.execSbu x y z s
  | .sh x y z => Sys2Proof.Machine.execSh x y z s
  | .shu x y z => Sys2Proof.Machine.execShu x y z s
  | .sw x y z => Sys2Proof.Machine.execSw x y z s
  | .swu x y z => Sys2Proof.Machine.execSwu x y z s
  | .sbi x y n => Sys2Proof.Machine.execSbi x y n s
  | .sbui x y n => Sys2Proof.Machine.execSbui x y n s
  | .shi x y n => Sys2Proof.Machine.execShi x y n s
  | .shui x y n => Sys2Proof.Machine.execShui x y n s
  | .swi x y n => Sys2Proof.Machine.execSwi x y n s
  | .swui x y n => Sys2Proof.Machine.execSwui x y n s
  | .pushb x => Sys2Proof.Machine.execPushb x s
  | .pushh x => Sys2Proof.Machine.execPushh x s
  | .push x => Sys2Proof.Machine.execPush x s
  | .popb x => Sys2Proof.Machine.execPopb x s
  | .poph x => Sys2Proof.Machine.execPoph x s
  | .pop x => Sys2Proof.Machine.execPop x s
  | .add x y z => Sys2Proof.Machine.execAdd x y z s
  | .addu x y z => Sys2Proof.Machine.execAddu x y z s
  | .addi x y n => Sys2Proof.Machine.execAddi x y n s
  | .addiu x y n => Sys2Proof.Machine.execAddiu x y n s
  | .sub x y z => Sys2Proof.Machine.execSub x y z s
  | .subu x y z => Sys2Proof.Machine.execSubu x y z s
  | .subi x y n => Sys2Proof.Machine.execSubi x y n s
  | .subiu x y n => Sys2Proof.Machine.execSubiu x y n s
  | .mul x y => Sys2Proof.Machine.execMul x y s
  | .mulu x y => Sys2Proof.Machine.execMulu x y s
  | .muli x n => Sys2Proof.Machine.execMuli x n s
  | .muliu x n => Sys2Proof.Machine.execMuliu x n s
  | .muld x y z => Sys2Proof.Machine.execMuld x y z s
  | .div x y => Sys2Proof.Machine.execDiv x y s
  | .divu x y => Sys2Proof.Machine.execDivu x y s
  | .divi x n => Sys2Proof.Machine.execDivi x n s
  | .diviu x n => Sys2Proof.Machine.execDiviu x n s
  | .divd x y z => Sys2Proof.Machine.execDivd x y z s
  | .mod x y z => Sys2Proof.Machine.execMod x y z s
  | .modi x y n => Sys2Proof.Machine.execModi x y n s
  | .abs x y => Sys2Proof.Machine.execAbs x y s
  | .neg x y => Sys2Proof.Machine.execNeg x y s
  | .inc x => Sys2Proof.Machine.execInc x s
  | .dec x => Sys2Proof.Machine.execDec x s
  | .and x y z => Sys2Proof.Machine.execAnd x y z s
  | .andi x y n => Sys2Proof.Machine.execAndi x y n s
  | .or x y z => Sys2Proof.Machine.execOr x y z s
  | .ori x y n => Sys2Proof.Machine.execOri x y n s
  | .xor x y z => Sys2Proof.Machine.execXor x y z s
  | .xori x y n => Sys2Proof.Machine.execXori x y n s
  | .not x y => Sys2Proof.Machine.execNot x y s
  | .noti x n => Sys2Proof.Machine.execNoti x n s
  | .nand x y z => Sys2Proof.Machine.execNand x y z s
  | .nandi x y n => Sys2Proof.Machine.execNandi x y n s
  | .nor x y z => Sys2Proof.Machine.execNor x y z s
  | .nori x y n => Sys2Proof.Machine.execNori x y n s
  | .shl x y z => Sys2Proof.Machine.execShl x y z s
  | .shli x y n => Sys2Proof.Machine.execShli x y n s
  | .shr x y z => Sys2Proof.Machine.execShr x y z s
  | .shri x y n => Sys2Proof.Machine.execShri x y n s
  | .shra x y z => Sys2Proof.Machine.execShra x y z s
  | .shrai x y n => Sys2Proof.Machine.execShrai x y n s
  | .rotl x y z => Sys2Proof.Machine.execRotl x y z s
  | .rotli x y n => Sys2Proof.Machine.execRotli x y n s
  | .rotr x y z => Sys2Proof.Machine.execRotr x y z s
  | .rotri x y n => Sys2Proof.Machine.execRotri x y n s
  | .cmp x y => Sys2Proof.Machine.execCmp x y s
  | .cmpu x y => Sys2Proof.Machine.execCmpu x y s
  | .cmpi x n => Sys2Proof.Machine.execCmpi x n s
  | .cmpiu x n => Sys2Proof.Machine.execCmpiu x n s
  | .be n => Sys2Proof.Machine.execBe n s
  | .bne n => Sys2Proof.Machine.execBne n s
  | .bl n => Sys2Proof.Machine.execBl n s
  | .ble n => Sys2Proof.Machine.execBle n s
  | .bg n => Sys2Proof.Machine.execBg n s
  | .bge n => Sys2Proof.Machine.execBge n s
  | .jmp n => Sys2Proof.Machine.execJmp n s
  | .jmpr x => Sys2Proof.Machine.execJmpr x s
  | .go n => Sys2Proof.Machine.execGo n s
  | .call n => Sys2Proof.Machine.execCall n s
  | .ret => Sys2Proof.Machine.execRet s
  | .wake n => Sys2Proof.Machine.execWake n s
  | .kill => Sys2Proof.Machine.execKill s

end Sys2Proof.Machine
end

