-- ==== Sys2Proof/Machine/Cycle.lean ====
section
/-! DEFINITION. The execution cycle FETCH, UPDATE PC, DECODE, EXECUTE (10_state.md R42), which `step` runs. -/

namespace Sys2Proof.Machine

/-- The word of four bytes at an address if they all lie in the memory port, read without any side effect (R39). -/
def memoryWord (s : State) (a : Word) : Option Word :=
  if 0 ≤ signed a then
    match findPort s.busPorts a.toNat 4 with
    | some p =>
      if p.type = memoryType then some (assemble (fun j => Memory.read s.mem (a.toNat + j)) .word) else none
    | none => none
  else none

/-- What NIN takes for the incremented PC: the following word, any value where it is not in the memory (R39, D34). -/
def nextInstruction (s : State) (pc : Word) : Word :=
  (memoryWord s pc).getD (Config.ninUnspecified s.tick pc)

/-- The next number of the model's counter, for a fetch or an execution that may read free values
(notes/assumptions/12.md). -/
def State.ticked (s : State) : State := { s with tick := s.tick + 1 }

/-- `MemFetch`: a read of four bytes (R76); it is not subject to the bus-enable guard (R31). -/
def memFetch (s : State) : Option (Word × State) := memRead s.ticked s.pc .word

/-- The address of the instruction that follows the one at `pc` in memory (R47). -/
def advance (pc : Word) : Word := trunc32 (unsigned pc + 4)

/-- FETCH and UPDATE PC once the word is read: LIN takes IR, IR the word, PC advances, NIN takes the following word
(R42). -/
def State.fetched (s : State) (w : Word) : State :=
  { s with
    lin := s.ir
    ir := w
    pc := advance s.pc
    nin := nextInstruction s (advance s.pc)
    tick := s.tick + 1 }

/-- The opcode of ALIV, the one instruction that runs while `zombie` is true (R33). -/
def alivOpcode : Byte := 0x0B

/-- DECODE and EXECUTE of the word in IR: the zombie guard (R33), the opcode (R114), the instruction (R354). -/
def executeWord (s : State) (w : Word) : Answer State :=
  if s.zombie && opcodeOf w != alivOpcode then .next s
  else match decode w with
    | .ok i => exec i s
    | .error _ => signalError s .illegalOpcode w

/-- One step of the machine (R42). While `power` is not RUNNING nothing changes any more (R30;
notes/assumptions/10.md). -/
def runCycle (s : State) : Answer State :=
  match s.power with
  | .running =>
    match memFetch s with
    | none => .next s.fetchError
    | some (w, s1) => executeWord (s1.fetched w) w
  | _ => .next s

/-- The state with an instruction's four bytes in memory at an address (R101). -/
def State.placeWord (s : State) (a : Nat) (w : Word) : State :=
  { s with mem := Memory.store s.mem a (bytesOfWord w) }

/-- The state with PC at an address whose four bytes lie in memory: unchanged where PC is one already, else PC = 0. -/
def State.fetchable (s : State) : State :=
  if (memoryWord s s.pc).isSome then s else { s with pc := 0 }

/-- The state that fetches and runs this word next: the word lies at PC, and the machine runs. -/
def State.presentWord (s : State) (w : Word) : State :=
  { s.fetchable.placeWord s.fetchable.pc.toNat w with power := .running }

end Sys2Proof.Machine
end

