-- ==== Sys2Proof/Machine/Step.lean ====
section
/-! DEFINITION. One step of the machine, and the state prepared to fetch a given word. Both only call
`Machine/Cycle.lean`. -/

namespace Sys2Proof.Machine

/-- One step: the cycle of 10_state.md R42. -/
def step (s : State) : Host.Outcome State Fault Refusal := runCycle s

/-- The state with the instruction whose bits are `w` stored where `step` fetches next (bit 0 is the least significant
bit of the 32-bit word, whose opcode is bits 31:24; it is stored with its most significant byte first, R101). -/
def State.withFetchWord (s : State) (nbits w : Nat) : State :=
  s.presentWord (BitVec.ofNat 32 (w % 2 ^ nbits))

end Sys2Proof.Machine
end

