-- ==== Sys2Proof/Safety.lean ====
section
/-! DEFINITION. What counts as a safe state and a safe run, and the groups of instructions that the rules about the
whole machine speak of. -/

namespace Sys2Proof.Machine

/-- What holds in every state that a run can reach, whatever operating system stands behind WAKE: the parameters are
ones the spec allows (R7), the bus's list is the one built from them (R386), and the memory is in canonical form and
within the memory port (R66). -/
structure State.Sound (s : State) : Prop where
  paramsValid : s.params.valid = true
  busBuilt : s.busPorts = s.params.enumeratePorts
  memCanonical : Memory.wf s.mem = true
  memWithin : Memory.below s.params.memSize s.mem = true

/-- What holds in every state that a run can reach where the operating system keeps SP in its range
(`HandlerKeepsSp`): the state is sound and SP lies in 0..MEM_MAX (R26, R347). -/
structure State.Inv (s : State) : Prop extends s.Sound where
  spInRange : s.sp.toNat ≤ s.params.memMax

/-- The operating system behind WAKE gives SP back in its range. So does the default one, which leaves SP alone; of one
that the environment supplies it is an assumption (R330, D27). -/
def HandlerKeepsSp (p : Params) : Prop :=
  p.wakeHandler = .environment → ∀ (code : BitVec 24) (s : State), (Config.wakeHandler code s).sp.toNat ≤ p.memMax

/-- EXECUTE of this instruction calls an operating system that the environment supplies: a WAKE while `os_on` is true
and the parameter `WAKE_HANDLER` is `environment` (R330). -/
def State.CallsEnvironment (s : State) (i : Instr) : Prop :=
  (∃ n, i = .wake n) ∧ s.osOn = true ∧ s.params.wakeHandler = .environment

/-- The machine does not stop: its next step answers a state. -/
def State.Progresses (s : State) : Prop := ∃ t, step s = .next t

/-- A run of k steps that never stops ends in `t`. -/
inductive Reaches : State → Nat → State → Prop where
  | refl (s : State) : Reaches s 0 s
  | step {s t u : State} {k : Nat} : step s = .next t → Reaches t k u → Reaches s (k + 1) u

/-! ## What a step leaves alone -/

/-- Every register but those listed holds what it held. -/
def State.SameRegistersBut (s t : State) (changed : List Reg) : Prop :=
  ∀ r, r ∉ changed → t.content r = s.content r

/-- Every byte of memory outside the n bytes from `a` on reads as it read. -/
def State.SameBytesOutside (s t : State) (a n : Nat) : Prop :=
  ∀ b, b < a ∨ a + n ≤ b → Memory.read t.mem b = Memory.read s.mem b

/-- Every byte of memory reads as it read. -/
def State.SameBytes (s t : State) : Prop :=
  ∀ b, Memory.read t.mem b = Memory.read s.mem b

/-- The mode flags of R28 but `power` are the same. -/
structure State.SameModes (s t : State) : Prop where
  runmode : t.runmode = s.runmode
  busOn : t.busOn = s.busOn
  protectOn : t.protectOn = s.protectOn
  zombie : t.zombie = s.zombie
  osOn : t.osOn = s.osOn
  sysmode : t.sysmode = s.sysmode

/-- The bus's list, the parameters, the trace of WAKE codes and the model's counter are the same. -/
structure State.SameFixed (s t : State) : Prop where
  busPorts : t.busPorts = s.busPorts
  params : t.params = s.params
  wakeTrace : t.wakeTrace = s.wakeTrace
  tick : t.tick = s.tick

/-- Nothing but the registers and the memory bytes can differ. -/
structure State.SameMachine (s t : State) : Prop where
  power : t.power = s.power
  modes : s.SameModes t
  fixed : s.SameFixed t
  deviceTrace : t.deviceTrace = s.deviceTrace

/-- Nothing but the listed registers can differ. -/
structure State.OnlyRegisters (s t : State) (changed : List Reg) : Prop where
  registers : s.SameRegistersBut t changed
  bytes : s.SameBytes t
  machine : s.SameMachine t

/-! ## What an instruction answers -/

/-- The answer is a next state, of which P holds. -/
def Completes (a : Answer State) (P : State → Prop) : Prop := ∃ t, a = .next t ∧ P t

/-- The answer is a next state in which X holds v and nothing else has changed. -/
def WritesOnly (a : Answer State) (s : State) (X : Reg) (v : Word) : Prop :=
  Completes a fun t => t.content X = v ∧ s.OnlyRegisters t [X]

/-- The mark an error leaves (R343): its bit of ERR is set and no other bit changed, ERRM holds the information, and
under `ERR_HALTS` the machine waits. Nothing else has changed. -/
structure State.Marked (s t : State) (e : ErrorCause) (info : Word) : Prop where
  err : ∀ k : Fin 32, t.err.getLsbD k = (s.err.getLsbD k || decide (k = s.params.errBits.bit e))
  errm : t.errm = info
  registers : s.SameRegistersBut t [.err, .errm]
  bytes : s.SameBytes t
  power : t.power = if s.params.errHalts then .waiting else s.power
  modes : s.SameModes t
  fixed : s.SameFixed t
  deviceTrace : t.deviceTrace = s.deviceTrace

/-- The answer is the state with the error's mark: the instruction has had no other effect. -/
def Reports (a : Answer State) (s : State) (e : ErrorCause) (info : Word) : Prop :=
  Completes a fun t => s.Marked t e info

/-- The answer is an operand write of v to X (R36), in a machine whose protection mechanisms are on where it refuses:
the destination check, then SP's range check, then the write. -/
structure OperandWrite (a : Answer State) (s : State) (X : Reg) (v : Word) : Prop where
  refused : X.writeProtected = true → s.protectOn = true → Reports a s .writeProtected (zext X.number)
  outOfRange : X = .sp → s.params.memMax < v.toNat → s.protectOn = true → Reports a s .spRange v
  written : X.writeProtected = false → (X = .sp → v.toNat ≤ s.params.memMax) → WritesOnly a s X v

end Sys2Proof.Machine

namespace Sys2Proof

/-- The instructions that use the bus: the loads, the stores, the stack instructions, CALL and RET (R31). -/
def Instr.usesBus : Instr → Bool
  | .nop => false
  | .rst => false
  | .crm _ => false
  | .csm _ => false
  | .die => false
  | .rsr => false
  | .autsm => false
  | .socl => false
  | .hate => false
  | .trst => false
  | .zmb => false
  | .aliv => false
  | .set _ _ => false
  | .setu _ _ => false
  | .copy _ _ => false
  | .move _ _ => false
  | .lb _ _ _ => true
  | .lbu _ _ _ => true
  | .lh _ _ _ => true
  | .lhu _ _ _ => true
  | .lw _ _ _ => true
  | .lwu _ _ _ => true
  | .lbi _ _ _ => true
  | .lbui _ _ _ => true
  | .lhi _ _ _ => true
  | .lhui _ _ _ => true
  | .lwi _ _ _ => true
  | .lwui _ _ _ => true
  | .sb _ _ _ => true
  | .sbu _ _ _ => true
  | .sh _ _ _ => true
  | .shu _ _ _ => true
  | .sw _ _ _ => true
  | .swu _ _ _ => true
  | .sbi _ _ _ => true
  | .sbui _ _ _ => true
  | .shi _ _ _ => true
  | .shui _ _ _ => true
  | .swi _ _ _ => true
  | .swui _ _ _ => true
  | .pushb _ => true
  | .pushh _ => true
  | .push _ => true
  | .popb _ => true
  | .poph _ => true
  | .pop _ => true
  | .add _ _ _ => false
  | .addu _ _ _ => false
  | .addi _ _ _ => false
  | .addiu _ _ _ => false
  | .sub _ _ _ => false
  | .subu _ _ _ => false
  | .subi _ _ _ => false
  | .subiu _ _ _ => false
  | .mul _ _ => false
  | .mulu _ _ => false
  | .muli _ _ => false
  | .muliu _ _ => false
  | .muld _ _ _ => false
  | .div _ _ => false
  | .divu _ _ => false
  | .divi _ _ => false
  | .diviu _ _ => false
  | .divd _ _ _ => false
  | .mod _ _ _ => false
  | .modi _ _ _ => false
  | .abs _ _ => false
  | .neg _ _ => false
  | .inc _ => false
  | .dec _ => false
  | .and _ _ _ => false
  | .andi _ _ _ => false
  | .or _ _ _ => false
  | .ori _ _ _ => false
  | .xor _ _ _ => false
  | .xori _ _ _ => false
  | .not _ _ => false
  | .noti _ _ => false
  | .nand _ _ _ => false
  | .nandi _ _ _ => false
  | .nor _ _ _ => false
  | .nori _ _ _ => false
  | .shl _ _ _ => false
  | .shli _ _ _ => false
  | .shr _ _ _ => false
  | .shri _ _ _ => false
  | .shra _ _ _ => false
  | .shrai _ _ _ => false
  | .rotl _ _ _ => false
  | .rotli _ _ _ => false
  | .rotr _ _ _ => false
  | .rotri _ _ _ => false
  | .cmp _ _ => false
  | .cmpu _ _ => false
  | .cmpi _ _ => false
  | .cmpiu _ _ => false
  | .be _ => false
  | .bne _ => false
  | .bl _ => false
  | .ble _ => false
  | .bg _ => false
  | .bge _ => false
  | .jmp _ => false
  | .jmpr _ => false
  | .go _ => false
  | .call _ => true
  | .ret => true
  | .wake _ => false
  | .kill => false

/-- The destination operand fields, X before Y (R349): the registers an instruction names and writes. -/
def Instr.destinations : Instr → List RegNumber
  | .nop => []
  | .rst => []
  | .crm _ => []
  | .csm _ => []
  | .die => []
  | .rsr => []
  | .autsm => []
  | .socl => []
  | .hate => []
  | .trst => []
  | .zmb => []
  | .aliv => []
  | .set x _ => [x]
  | .setu x _ => [x]
  | .copy x _ => [x]
  | .move x y => [x, y]
  | .lb x _ _ => [x]
  | .lbu x _ _ => [x]
  | .lh x _ _ => [x]
  | .lhu x _ _ => [x]
  | .lw x _ _ => [x]
  | .lwu x _ _ => [x]
  | .lbi x _ _ => [x]
  | .lbui x _ _ => [x]
  | .lhi x _ _ => [x]
  | .lhui x _ _ => [x]
  | .lwi x _ _ => [x]
  | .lwui x _ _ => [x]
  | .sb _ _ _ => []
  | .sbu _ _ _ => []
  | .sh _ _ _ => []
  | .shu _ _ _ => []
  | .sw _ _ _ => []
  | .swu _ _ _ => []
  | .sbi _ _ _ => []
  | .sbui _ _ _ => []
  | .shi _ _ _ => []
  | .shui _ _ _ => []
  | .swi _ _ _ => []
  | .swui _ _ _ => []
  | .pushb _ => []
  | .pushh _ => []
  | .push _ => []
  | .popb x => [x]
  | .poph x => [x]
  | .pop x => [x]
  | .add x _ _ => [x]
  | .addu x _ _ => [x]
  | .addi x _ _ => [x]
  | .addiu x _ _ => [x]
  | .sub x _ _ => [x]
  | .subu x _ _ => [x]
  | .subi x _ _ => [x]
  | .subiu x _ _ => [x]
  | .mul _ _ => []
  | .mulu _ _ => []
  | .muli _ _ => []
  | .muliu _ _ => []
  | .muld x _ _ => [x]
  | .div _ _ => []
  | .divu _ _ => []
  | .divi _ _ => []
  | .diviu _ _ => []
  | .divd x _ _ => [x]
  | .mod x _ _ => [x]
  | .modi x _ _ => [x]
  | .abs x _ => [x]
  | .neg x _ => [x]
  | .inc x => [x]
  | .dec x => [x]
  | .and x _ _ => [x]
  | .andi x _ _ => [x]
  | .or x _ _ => [x]
  | .ori x _ _ => [x]
  | .xor x _ _ => [x]
  | .xori x _ _ => [x]
  | .not x _ => [x]
  | .noti x _ => [x]
  | .nand x _ _ => [x]
  | .nandi x _ _ => [x]
  | .nor x _ _ => [x]
  | .nori x _ _ => [x]
  | .shl x _ _ => [x]
  | .shli x _ _ => [x]
  | .shr x _ _ => [x]
  | .shri x _ _ => [x]
  | .shra x _ _ => [x]
  | .shrai x _ _ => [x]
  | .rotl x _ _ => [x]
  | .rotli x _ _ => [x]
  | .rotr x _ _ => [x]
  | .rotri x _ _ => [x]
  | .cmp _ _ => []
  | .cmpu _ _ => []
  | .cmpi _ _ => []
  | .cmpiu _ _ => []
  | .be _ => []
  | .bne _ => []
  | .bl _ => []
  | .ble _ => []
  | .bg _ => []
  | .bge _ => []
  | .jmp _ => []
  | .jmpr _ => []
  | .go _ => []
  | .call _ => []
  | .ret => []
  | .wake _ => []
  | .kill => []

/-- The opcodes of the instructions that write PC in EXECUTE: RSR, the branches and jumps, GO, CALL, RET. -/
def pcWriters : List Byte := [0x05, 0xD0, 0xD1, 0xD2, 0xD3, 0xD4, 0xD5, 0xD8, 0xD9, 0xDF, 0xE0, 0xE1]

/-- The opcodes of the instructions that store: the twelve stores, the three pushes, CALL. -/
def memoryWriters : List Byte :=
  [0x30, 0x31, 0x32, 0x33, 0x34, 0x35, 0x38, 0x39, 0x3A, 0x3B, 0x3C, 0x3D, 0x40, 0x41, 0x42, 0xE0]

end Sys2Proof

namespace Sys2Proof.Machine

/-! ## The forms that reach the bus -/

/-- The twelve loads (R167): the word, the instruction, the register X, the effective address, the width. -/
inductive LoadForm : Word → Instr → Reg → (State → Word) → Width → Prop where
  | lb (X Y Z : Reg) : LoadForm (wordOfBytes 0x20 X.number Y.number Z.number) (.lb X.number Y.number Z.number) X
      (fun s => effectiveAddress (s.operand .y Y) (s.operand .z Z)) .byte
  | lbu (X Y Z : Reg) : LoadForm (wordOfBytes 0x21 X.number Y.number Z.number) (.lbu X.number Y.number Z.number) X
      (fun s => effectiveAddress (s.operand .y Y) (s.operand .z Z)) .byte
  | lh (X Y Z : Reg) : LoadForm (wordOfBytes 0x22 X.number Y.number Z.number) (.lh X.number Y.number Z.number) X
      (fun s => effectiveAddress (s.operand .y Y) (s.operand .z Z)) .half
  | lhu (X Y Z : Reg) : LoadForm (wordOfBytes 0x23 X.number Y.number Z.number) (.lhu X.number Y.number Z.number) X
      (fun s => effectiveAddress (s.operand .y Y) (s.operand .z Z)) .half
  | lw (X Y Z : Reg) : LoadForm (wordOfBytes 0x24 X.number Y.number Z.number) (.lw X.number Y.number Z.number) X
      (fun s => effectiveAddress (s.operand .y Y) (s.operand .z Z)) .word
  | lwu (X Y Z : Reg) : LoadForm (wordOfBytes 0x25 X.number Y.number Z.number) (.lwu X.number Y.number Z.number) X
      (fun s => effectiveAddress (s.operand .y Y) (s.operand .z Z)) .word
  | lbi (X Y : Reg) (N : BitVec 8) : LoadForm (wordOfBytes 0x28 X.number Y.number N) (.lbi X.number Y.number N) X
      (fun s => effectiveAddress (s.operand .y Y) (sext N)) .byte
  | lbui (X Y : Reg) (N : BitVec 8) : LoadForm (wordOfBytes 0x29 X.number Y.number N) (.lbui X.number Y.number N) X
      (fun s => effectiveAddress (s.operand .y Y) (zext N)) .byte
  | lhi (X Y : Reg) (N : BitVec 8) : LoadForm (wordOfBytes 0x2A X.number Y.number N) (.lhi X.number Y.number N) X
      (fun s => effectiveAddress (s.operand .y Y) (sext N)) .half
  | lhui (X Y : Reg) (N : BitVec 8) : LoadForm (wordOfBytes 0x2B X.number Y.number N) (.lhui X.number Y.number N) X
      (fun s => effectiveAddress (s.operand .y Y) (zext N)) .half
  | lwi (X Y : Reg) (N : BitVec 8) : LoadForm (wordOfBytes 0x2C X.number Y.number N) (.lwi X.number Y.number N) X
      (fun s => effectiveAddress (s.operand .y Y) (sext N)) .word
  | lwui (X Y : Reg) (N : BitVec 8) : LoadForm (wordOfBytes 0x2D X.number Y.number N) (.lwui X.number Y.number N) X
      (fun s => effectiveAddress (s.operand .y Y) (zext N)) .word

/-- The twelve stores (R180 to R191): the word, the instruction, the register X, the effective address, the width. -/
inductive StoreForm : Word → Instr → Reg → (State → Word) → Width → Prop where
  | sb (X Y Z : Reg) : StoreForm (wordOfBytes 0x30 X.number Y.number Z.number) (.sb X.number Y.number Z.number) X
      (fun s => effectiveAddress (s.operand .y Y) (s.operand .z Z)) .byte
  | sbu (X Y Z : Reg) : StoreForm (wordOfBytes 0x31 X.number Y.number Z.number) (.sbu X.number Y.number Z.number) X
      (fun s => effectiveAddress (s.operand .y Y) (s.operand .z Z)) .byte
  | sh (X Y Z : Reg) : StoreForm (wordOfBytes 0x32 X.number Y.number Z.number) (.sh X.number Y.number Z.number) X
      (fun s => effectiveAddress (s.operand .y Y) (s.operand .z Z)) .half
  | shu (X Y Z : Reg) : StoreForm (wordOfBytes 0x33 X.number Y.number Z.number) (.shu X.number Y.number Z.number) X
      (fun s => effectiveAddress (s.operand .y Y) (s.operand .z Z)) .half
  | sw (X Y Z : Reg) : StoreForm (wordOfBytes 0x34 X.number Y.number Z.number) (.sw X.number Y.number Z.number) X
      (fun s => effectiveAddress (s.operand .y Y) (s.operand .z Z)) .word
  | swu (X Y Z : Reg) : StoreForm (wordOfBytes 0x35 X.number Y.number Z.number) (.swu X.number Y.number Z.number) X
      (fun s => effectiveAddress (s.operand .y Y) (s.operand .z Z)) .word
  | sbi (X Y : Reg) (N : BitVec 8) : StoreForm (wordOfBytes 0x38 X.number Y.number N) (.sbi X.number Y.number N) X
      (fun s => effectiveAddress (s.operand .y Y) (sext N)) .byte
  | sbui (X Y : Reg) (N : BitVec 8) : StoreForm (wordOfBytes 0x39 X.number Y.number N) (.sbui X.number Y.number N) X
      (fun s => effectiveAddress (s.operand .y Y) (zext N)) .byte
  | shi (X Y : Reg) (N : BitVec 8) : StoreForm (wordOfBytes 0x3A X.number Y.number N) (.shi X.number Y.number N) X
      (fun s => effectiveAddress (s.operand .y Y) (sext N)) .half
  | shui (X Y : Reg) (N : BitVec 8) : StoreForm (wordOfBytes 0x3B X.number Y.number N) (.shui X.number Y.number N) X
      (fun s => effectiveAddress (s.operand .y Y) (zext N)) .half
  | swi (X Y : Reg) (N : BitVec 8) : StoreForm (wordOfBytes 0x3C X.number Y.number N) (.swi X.number Y.number N) X
      (fun s => effectiveAddress (s.operand .y Y) (sext N)) .word
  | swui (X Y : Reg) (N : BitVec 8) : StoreForm (wordOfBytes 0x3D X.number Y.number N) (.swui X.number Y.number N) X
      (fun s => effectiveAddress (s.operand .y Y) (zext N)) .word

/-- The three pushes (R200): the word with its two unused bytes, the instruction, the register X, the width. -/
inductive PushForm : Word → Instr → Reg → Width → Prop where
  | pushb (X : Reg) (u v : Byte) : PushForm (wordOfBytes 0x40 X.number u v) (.pushb X.number) X .byte
  | pushh (X : Reg) (u v : Byte) : PushForm (wordOfBytes 0x41 X.number u v) (.pushh X.number) X .half
  | push (X : Reg) (u v : Byte) : PushForm (wordOfBytes 0x42 X.number u v) (.push X.number) X .word

/-- The three pops (R200): the word with its two unused bytes, the instruction, the register X, the width. -/
inductive PopForm : Word → Instr → Reg → Width → Prop where
  | popb (X : Reg) (u v : Byte) : PopForm (wordOfBytes 0x48 X.number u v) (.popb X.number) X .byte
  | poph (X : Reg) (u v : Byte) : PopForm (wordOfBytes 0x49 X.number u v) (.poph X.number) X .half
  | pop (X : Reg) (u v : Byte) : PopForm (wordOfBytes 0x4A X.number u v) (.pop X.number) X .word

/-! ## Bytes of a word -/

/-- Byte j of a word, byte 0 the least significant one. -/
def byteOf (v : Word) (j : Nat) : Byte := v.extractLsb' (8 * j) 8

/-- v holds n bytes in its low bytes, the one that `byteAt 0` gives being the most significant of them (R73), and the
other bytes of `old` above them (R154 (c)). -/
def Merged (old : Word) (n : Width) (byteAt : Nat → Byte) (v : Word) : Prop :=
  ∀ j < 4, byteOf v j = if j < n.bytes then byteAt (n.bytes - 1 - j) else byteOf old j

/-- The memory holds the low n bytes of v from address a on, the most significant one first (R73). -/
def Holds (m : Memory) (a : Nat) (n : Width) (v : Word) : Prop :=
  ∀ j < n.bytes, Memory.read m (a + j) = byteOf v (n.bytes - 1 - j)

/-- The four bytes that `byteAt` gives at offsets 0 to 3, as an instruction word (R101). -/
def wordFrom (byteAt : Nat → Byte) : Word := wordOfBytes (byteAt 0) (byteAt 1) (byteAt 2) (byteAt 3)

/-- The four bytes of memory from address a on, as an instruction word. -/
def State.wordAt (s : State) (a : Nat) : Word := wordFrom fun j => Memory.read s.mem (a + j)

/-! ## Which accesses the bus serves -/

/-- No port's range holds all n bytes from address a on (R77). -/
def State.NoPort (s : State) (a n : Nat) : Prop := ∀ p ∈ s.busPorts, a < p.start ∨ p.start + p.length < a + n

/-- `byteAt` gives the table bytes that an n-byte read at address -k uses, under `NEG_ACCESS` (R79, D4). -/
def State.TableBytes (s : State) (k : Nat) (n : Width) (byteAt : Nat → Byte) : Prop :=
  match s.params.negAccess with
  | .mirrored => 1 ≤ k ∧ k + n.bytes ≤ 2307 ∧ ∀ j, byteAt j = tableByte s.busPorts (k + j)
  | .ascending => n.bytes ≤ k ∧ k ≤ 2306 ∧ ∀ j, byteAt j = tableByte s.busPorts (k - j)
  | .fault => 1 ≤ k ∧ k ≤ 2306 ∧ n = .byte ∧ ∀ j, byteAt j = tableByte s.busPorts (k + j)

/-- The bus cannot serve an n-byte read at address a (R77). -/
def State.CannotRead (s : State) (a : Word) (n : Width) : Prop :=
  (0 ≤ a.toInt ∧ s.NoPort a.toNat n.bytes) ∨
    (a.toInt < 0 ∧ ∀ byteAt, ¬ s.TableBytes (-a.toInt).toNat n byteAt)

/-- The bus cannot serve an n-byte write at address a: no port takes it, or it goes to the table (R77). -/
def State.CannotWrite (s : State) (a : Word) (n : Width) : Prop :=
  a.toInt < 0 ∨ s.NoPort a.toNat n.bytes

/-! ## One fetch -/

/-- `u` is `s` with the word w fetched (R42): LIN takes IR, IR the word, PC advances by four, and NIN takes the four
bytes at the new PC where they all lie in the memory. `calls` are the calls of devices that the fetch has made. Nothing
else has changed but the model's counter. -/
structure State.Fetched (s : State) (w : Word) (calls : List DeviceEvent) (u : State) : Prop where
  lin : u.lin = s.ir
  ir : u.ir = w
  pc : u.pc = s.pc + 4
  nin : (s.pc + 4).toNat + 4 ≤ s.params.memSize → u.nin = s.wordAt (s.pc + 4).toNat
  registers : s.SameRegistersBut u [.lin, .ir, .pc, .nin]
  bytes : s.SameBytes u
  power : u.power = s.power
  modes : s.SameModes u
  busPorts : u.busPorts = s.busPorts
  params : u.params = s.params
  wakeTrace : u.wakeTrace = s.wakeTrace
  deviceTrace : u.deviceTrace = s.deviceTrace ++ calls
  tick : s.tick < u.tick

/-- The next step fetches the word w from the memory and takes it to EXECUTE: the machine runs and the four bytes at PC
lie in the memory. -/
structure State.WillFetch (s : State) (w : Word) : Prop where
  sound : s.Sound
  running : s.power = .running
  inMemory : s.pc.toNat + 4 ≤ s.params.memSize
  word : s.wordAt s.pc.toNat = w

/-- What the step of `s` answers once the word w is fetched and the state is `u` (R42): the decoded instruction runs on
`u`, a word without one is reported (R114), and a zombie machine only lets ALIV have an effect (R33). -/
structure State.Executes (s : State) (w : Word) (u : State) : Prop where
  decoded : ∀ i, s.zombie = false → decode w = .ok i → step s = exec i u
  illegal : s.zombie = false → decode w = .error .illegalOpcode → Reports (step s) u .illegalOpcode w
  zombie : s.zombie = true → w.toNat / 2 ^ 24 ≠ 0x0B → step s = .next u
  aliv : s.zombie = true → w.toNat / 2 ^ 24 = 0x0B → step s = .next { u with zombie := false }

end Sys2Proof.Machine
end

