-- ==== Sys2Proof/Certificates/Slice0/Obligations.lean ====
section
/-! DEFINITION. The statements about the machine. Each docstring names the rules or decisions of spec/ it formalises;
the forms that many instructions share are written once, under `Claims`. -/

namespace Sys2Proof.Claims

open Sys2Proof.Machine

/-! ## Forms of statements -/

/-- An instruction one of whose register fields names no register is reported and has no other effect (R115). -/
def RefusesBadRegister (i : Instr) (fields : List RegNumber) : Prop :=
  ∀ s : State, (∃ f ∈ fields, RegNumber.valid f = false) → s.protectOn = true →
    Reports (exec i s) s .badRegister s.ir

/-- Format RRR, X takes a function of Y and Z. -/
def WritesRRR (op : Byte) (mk : RegNumber → RegNumber → RegNumber → Instr) (value : Word → Word → Word) : Prop :=
  (∀ x y z : RegNumber, decode (wordOfBytes op x y z) = .ok (mk x y z) ∧ RefusesBadRegister (mk x y z) [x, y, z]) ∧
    ∀ (X Y Z : Reg) (s : State),
      OperandWrite (exec (mk X.number Y.number Z.number) s) s X (value (s.operand .y Y) (s.operand .z Z))

/-- Format RRN, X takes a function of Y and N. -/
def WritesRRN (op : Byte) (mk : RegNumber → RegNumber → BitVec 8 → Instr) (value : Word → BitVec 8 → Word) : Prop :=
  (∀ (x y : RegNumber) (n : BitVec 8), decode (wordOfBytes op x y n) = .ok (mk x y n) ∧
      RefusesBadRegister (mk x y n) [x, y]) ∧
    ∀ (X Y : Reg) (n : BitVec 8) (s : State),
      OperandWrite (exec (mk X.number Y.number n) s) s X (value (s.operand .y Y) n)

/-- Format RR0, X takes a function of Y; the fourth byte is ignored. -/
def WritesRR0 (op : Byte) (mk : RegNumber → RegNumber → Instr) (value : Word → Word) : Prop :=
  (∀ (x y : RegNumber) (unused : Byte), decode (wordOfBytes op x y unused) = .ok (mk x y) ∧
      RefusesBadRegister (mk x y) [x, y]) ∧
    ∀ (X Y : Reg) (s : State),
      OperandWrite (exec (mk X.number Y.number) s) s X (value (s.operand .y Y))

/-- Format RNN, X takes a function of N. -/
def WritesRNN (op : Byte) (mk : RegNumber → BitVec 16 → Instr) (value : BitVec 16 → Word) : Prop :=
  (∀ (x : RegNumber) (n : BitVec 16), decode (op ++ x ++ n) = .ok (mk x n) ∧ RefusesBadRegister (mk x n) [x]) ∧
    ∀ (X : Reg) (n : BitVec 16) (s : State), OperandWrite (exec (mk X.number n) s) s X (value n)

/-- Format R00, X takes a function of itself; the last two bytes are ignored. -/
def WritesR00 (op : Byte) (mk : RegNumber → Instr) (value : Word → Word) : Prop :=
  (∀ (x : RegNumber) (unused : BitVec 16), decode (op ++ x ++ unused) = .ok (mk x) ∧ RefusesBadRegister (mk x) [x]) ∧
    ∀ (X : Reg) (s : State), OperandWrite (exec (mk X.number) s) s X (value (s.operand .x X))

/-- Format RR0, both registers are sources: `effect` is what the answer is, for the state and the two values. -/
def ReadsRR0 (op : Byte) (mk : RegNumber → RegNumber → Instr)
    (effect : Answer State → State → Word → Word → Prop) : Prop :=
  (∀ (x y : RegNumber) (unused : Byte), decode (wordOfBytes op x y unused) = .ok (mk x y) ∧
      RefusesBadRegister (mk x y) [x, y]) ∧
    ∀ (X Y : Reg) (s : State), effect (exec (mk X.number Y.number) s) s (s.operand .x X) (s.operand .y Y)

/-- Format RNN, the register is a source: `effect` is what the answer is, for the state, the register's value and the
extended number. -/
def ReadsRNN (op : Byte) (mk : RegNumber → BitVec 16 → Instr) (extend : BitVec 16 → Word)
    (effect : Answer State → State → Word → Word → Prop) : Prop :=
  (∀ (x : RegNumber) (n : BitVec 16), decode (op ++ x ++ n) = .ok (mk x n) ∧ RefusesBadRegister (mk x n) [x]) ∧
    ∀ (X : Reg) (n : BitVec 16) (s : State), effect (exec (mk X.number n) s) s (s.operand .x X) (extend n)

/-- HI and LO, put together, are the product of two signed numbers; nothing else changes. -/
def SignedProduct (answer : Answer State) (s : State) (a b : Word) : Prop :=
  Completes answer fun t => (t.hi ++ t.lo).toInt = a.toInt * b.toInt ∧ s.OnlyRegisters t [.hi, .lo]

/-- HI and LO, put together, are the product of two unsigned numbers; nothing else changes. -/
def UnsignedProduct (answer : Answer State) (s : State) (a b : Word) : Prop :=
  Completes answer fun t => (t.hi ++ t.lo).toNat = a.toNat * b.toNat ∧ s.OnlyRegisters t [.hi, .lo]

/-- A signed division: HI is the quotient and LO the remainder, which is zero or has the sign of the dividend; the one
overflow wraps, and a divisor of zero is reported. -/
def SignedDivision (answer : Answer State) (s : State) (a b : Word) : Prop :=
  (b = 0 → Reports answer s .divideByZero s.ir) ∧
    (b ≠ 0 → Completes answer fun t => s.OnlyRegisters t [.hi, .lo] ∧
      if a = 0x80000000 ∧ b = 0xFFFFFFFF then t.hi = 0x80000000 ∧ t.lo = 0
      else b.toInt * t.hi.toInt + t.lo.toInt = a.toInt ∧ t.lo.toInt.natAbs < b.toInt.natAbs ∧
        (t.lo = 0 ∨ (t.lo.toInt < 0 ↔ a.toInt < 0)))

/-- An unsigned division: HI is the quotient and LO the remainder; a divisor of zero is reported. -/
def UnsignedDivision (answer : Answer State) (s : State) (a b : Word) : Prop :=
  (b = 0 → Reports answer s .divideByZero s.ir) ∧
    (b ≠ 0 → Completes answer fun t => s.OnlyRegisters t [.hi, .lo] ∧
      b.toNat * t.hi.toNat + t.lo.toNat = a.toNat ∧ t.lo.toNat < b.toNat)

/-- The checks of a division whose result v goes to X: the destination, then the divisor (R223 (e)). -/
def DivisionChecks (answer : Answer State) (s : State) (X : Reg) (b : Word) : Prop :=
  (X.writeProtected = true → s.protectOn = true → Reports answer s .writeProtected (zext X.number)) ∧
    (X.writeProtected = false → b = 0 → Reports answer s .divideByZero s.ir)

/-- An unsigned remainder of a and b that goes to X; HI and LO keep their values, but under `MOD_WRITES_HILO` they take
quotient and remainder (D16), unless X is one of them, which then holds the remainder (the model's choice,
notes/assumptions/18.md). -/
def Remainder (answer : Answer State) (s : State) (X : Reg) (a b : Word) : Prop :=
  DivisionChecks answer s X b ∧
    (s.params.modWritesHiLo = false → b ≠ 0 → OperandWrite answer s X (a % b)) ∧
    (s.params.modWritesHiLo = true → b ≠ 0 →
      (X = .sp → s.params.memMax < (a % b).toNat → s.protectOn = true → Reports answer s .spRange (a % b)) ∧
      (X.writeProtected = false → (X = .sp → (a % b).toNat ≤ s.params.memMax) →
        Completes answer fun t => t.content X = a % b ∧ (X ≠ .hi → t.hi = a / b) ∧ (X ≠ .lo → t.lo = a % b) ∧
          s.OnlyRegisters t [X, .hi, .lo]))

/-- CMP takes -1, 0 or +1 (R290); nothing else changes. -/
def Comparison (less : Word → Word → Bool) (answer : Answer State) (s : State) (a b : Word) : Prop :=
  Completes answer fun t =>
    t.cmp = (if less a b then 0xFFFFFFFF else if a = b then 0 else 1) ∧ s.OnlyRegisters t [.cmp]

/-- A conditional branch: where the condition holds of the signed CMP, PC moves by n instructions of four bytes; else
nothing changes. -/
def Branches (op : Byte) (mk : BitVec 24 → Instr) (condition : Int → Prop) : Prop :=
  ∀ n : BitVec 24, decode (op ++ n) = .ok (mk n) ∧
    ∀ s : State,
      (condition s.cmp.toInt → Completes (exec (mk n) s) fun t =>
        t.pc = s.pc + 4 * n.signExtend 32 ∧ s.OnlyRegisters t [.pc]) ∧
      (¬ condition s.cmp.toInt → exec (mk n) s = .next s)

/-- The registers no operand may write: PC, LIN, IR, NIN, ZERO (R349). -/
def protectedNumbers : List RegNumber := [0x33, 0x36, 0x37, 0x38, 0x3F]

/-- The opcode values that are not assigned, as ranges from first to last (R114). -/
def unassignedOpcodes : List (Nat × Nat) :=
  [(0x0C, 0x0F), (0x12, 0x17), (0x19, 0x19), (0x1B, 0x1F), (0x26, 0x27), (0x2E, 0x2F), (0x36, 0x37), (0x3E, 0x3F),
    (0x43, 0x47), (0x4B, 0x4F), (0x54, 0x57), (0x5C, 0x5F), (0x65, 0x67), (0x6D, 0x6F), (0x71, 0x71), (0x73, 0x77),
    (0x79, 0x7F), (0x83, 0x8F), (0x9C, 0x9F), (0xA6, 0xA7), (0xAC, 0xAF), (0xB4, 0xCF), (0xD6, 0xD7), (0xDA, 0xDE),
    (0xE2, 0xEF), (0xF1, 0xF7), (0xF9, 0xFF)]

/-- The bytes of the bus table of a machine with the three minimal ports, from address -1 on, for a memory of m bytes
(R69). -/
def minimalTable (m : Nat) : List Byte :=
  [3] ++ (bytesOfWord 0 ++ bytesOfWord (BitVec.ofNat 32 m) ++ [0]) ++
    (bytesOfWord (BitVec.ofNat 32 m) ++ bytesOfWord 64 ++ [1]) ++
    (bytesOfWord (BitVec.ofNat 32 (m + 64)) ++ bytesOfWord 64 ++ [2])

/-- A read of one byte at address -k gives this byte of the bus table and changes nothing. -/
def TableHolds (s : State) (k : Nat) (b : Byte) : Prop :=
  memRead s (BitVec.ofInt 32 (-k)) .byte = some (b.setWidth 32, s)

/-- The bytes at -k, -k-1, -k-2, -k-3 are those of a 4-byte number, the most significant one nearest to -1 (R68). -/
def TableHoldsNumber (s : State) (k v : Nat) : Prop := ∀ j < 4, TableHolds s (k + j) (byteOf (BitVec.ofNat 32 v) (3 - j))

/-! ## The instructions that write one register, with the value they write (R150 to R152, R210 to R272) -/

def rrrWriters : List ((RegNumber → RegNumber → RegNumber → Instr) × (Word → Word → Word)) :=
  [(.add, fun y z => y + z), (.addu, fun y z => y + z), (.sub, fun y z => y - z), (.subu, fun y z => y - z),
    (.muld, fun y z => y * z), (.and, fun y z => y &&& z), (.or, fun y z => y ||| z), (.xor, fun y z => y ^^^ z),
    (.nand, fun y z => ~~~(y &&& z)), (.nor, fun y z => ~~~(y ||| z)), (.shl, fun y z => y <<< z.toNat),
    (.shr, fun y z => y >>> z.toNat), (.shra, fun y z => y.sshiftRight z.toNat),
    (.rotl, fun y z => y <<< (z.toNat % 32) ||| y >>> (32 - z.toNat % 32)),
    (.rotr, fun y z => y >>> (z.toNat % 32) ||| y <<< (32 - z.toNat % 32))]

def rrnWriters : List ((RegNumber → RegNumber → BitVec 8 → Instr) × (Word → BitVec 8 → Word)) :=
  [(.addi, fun y n => y + n.signExtend 32), (.addiu, fun y n => y + n.setWidth 32),
    (.subi, fun y n => y - n.signExtend 32), (.subiu, fun y n => y - n.setWidth 32),
    (.andi, fun y n => y &&& n.setWidth 32), (.ori, fun y n => y ||| n.setWidth 32),
    (.xori, fun y n => y ^^^ n.setWidth 32), (.nandi, fun y n => ~~~(y &&& n.setWidth 32)),
    (.nori, fun y n => ~~~(y ||| n.setWidth 32)), (.shli, fun y n => y <<< n.toNat), (.shri, fun y n => y >>> n.toNat),
    (.shrai, fun y n => y.sshiftRight n.toNat),
    (.rotli, fun y n => y <<< (n.toNat % 32) ||| y >>> (32 - n.toNat % 32)),
    (.rotri, fun y n => y >>> (n.toNat % 32) ||| y <<< (32 - n.toNat % 32))]

def rr0Writers : List ((RegNumber → RegNumber → Instr) × (Word → Word)) :=
  [(.copy, fun y => y), (.abs, fun y => if y.toInt < 0 then -y else y), (.neg, fun y => -y), (.not, fun y => ~~~y)]

def rnnWriters : List ((RegNumber → BitVec 16 → Instr) × (BitVec 16 → Word)) :=
  [(.set, fun n => n.signExtend 32), (.setu, fun n => n.setWidth 32), (.noti, fun n => ~~~(n.setWidth 32))]

def r00Writers : List ((RegNumber → Instr) × (Word → Word)) := [(.inc, fun x => x + 1), (.dec, fun x => x - 1)]

/-- The value that an instruction with a destination field is about to write to SP, for every such instruction that does
not read the bus; DIVD, MOD and MODI where the divisor is not zero. -/
inductive SpWrite (s : State) : Instr → Word → Prop where
  | rrr {f} (hf : f ∈ rrrWriters) (Y Z : Reg) :
      SpWrite s (f.1 Reg.sp.number Y.number Z.number) (f.2 (s.operand .y Y) (s.operand .z Z))
  | rrn {f} (hf : f ∈ rrnWriters) (Y : Reg) (n : BitVec 8) :
      SpWrite s (f.1 Reg.sp.number Y.number n) (f.2 (s.operand .y Y) n)
  | rr0 {f} (hf : f ∈ rr0Writers) (Y : Reg) : SpWrite s (f.1 Reg.sp.number Y.number) (f.2 (s.operand .y Y))
  | rnn {f} (hf : f ∈ rnnWriters) (n : BitVec 16) : SpWrite s (f.1 Reg.sp.number n) (f.2 n)
  | r00 {f} (hf : f ∈ r00Writers) : SpWrite s (f.1 Reg.sp.number) (f.2 s.sp)
  | move (Y : Reg) (hy : Y.writeProtected = false) : SpWrite s (.move Reg.sp.number Y.number) (s.operand .y Y)
  | divd (Y Z : Reg) (hz : s.operand .z Z ≠ 0) : SpWrite s (.divd Reg.sp.number Y.number Z.number)
      (BitVec.ofInt 32 ((s.operand .y Y).toInt.tdiv (s.operand .z Z).toInt))
  | mod (Y Z : Reg) (hz : s.operand .z Z ≠ 0) :
      SpWrite s (.mod Reg.sp.number Y.number Z.number) (s.operand .y Y % s.operand .z Z)
  | modi (Y : Reg) (n : BitVec 8) (hn : n ≠ 0) :
      SpWrite s (.modi Reg.sp.number Y.number n) (s.operand .y Y % n.setWidth 32)

/-- The values that an instruction of the bus is about to write to SP, where its read is answered: a load into SP the
loaded value, a push and CALL the lowered SP, a pop and RET the raised SP, `POP SP` the loaded value and that value
raised (R26, R36, R199). -/
inductive SpWriteOnBus (s : State) : Instr → Word → Prop where
  | load {w i address n v s1 merged} (hf : LoadForm w i .sp address n) (hr : memRead s (address s) n = some (v, s1))
      (hm : Merged s.sp n (fun j => byteOf v (n.bytes - 1 - j)) merged) : SpWriteOnBus s i merged
  | push {w i X n} (hf : PushForm w i X n) : SpWriteOnBus s i (s.sp - BitVec.ofNat 32 n.bytes)
  | pop {w i X n v s1} (hf : PopForm w i X n) (hx : X ≠ .sp) (hp : X.writeProtected = false)
      (hr : memRead s s.sp n = some (v, s1)) : SpWriteOnBus s i (s.sp + BitVec.ofNat 32 n.bytes)
  | popSp {w i n v s1 merged} (hf : PopForm w i .sp n) (hr : memRead s s.sp n = some (v, s1))
      (hm : Merged s.sp n (fun j => byteOf v (n.bytes - 1 - j)) merged) : SpWriteOnBus s i merged
  | popSpRaised {w i n v s1 merged} (hf : PopForm w i .sp n) (hr : memRead s s.sp n = some (v, s1))
      (hm : Merged s.sp n (fun j => byteOf v (n.bytes - 1 - j)) merged) :
      SpWriteOnBus s i (merged + BitVec.ofNat 32 n.bytes)
  | call (n : BitVec 24) : SpWriteOnBus s (.call n) (s.sp - 4)
  | ret {v s1} (hr : memRead s s.sp .word = some (v, s1)) : SpWriteOnBus s .ret (s.sp + 4)

/-- Each port of a list follows the one before it without a gap and does not come before it in type order (R66). -/
def Consecutive : List Port → Prop
  | p :: q :: rest => q.start = p.start + p.length ∧ p.type.toNat ≤ q.type.toNat ∧ Consecutive (q :: rest)
  | _ => True

/-- The call of a device that a load of n bytes at a device port makes, and what X takes (R80). -/
def DeviceLoad (answer : Answer State) (s : State) (X : Reg) (ea : Word) (n : Width) (p : Port) : Prop :=
  ∃ value merged : Word, Merged 0 n (fun j => byteOf value (n.bytes - 1 - j)) value ∧
    Merged (s.operand .x X) n (fun j => byteOf value (n.bytes - 1 - j)) merged ∧
    (X.writeProtected = true → s.protectOn = true → Reports answer s .writeProtected (zext X.number)) ∧
    (X = .sp → s.params.memMax < merged.toNat → s.protectOn = true → Reports answer s .spRange merged) ∧
    (X.writeProtected = false → (X = .sp → merged.toNat ≤ s.params.memMax) → Completes answer fun t =>
      t.content X = merged ∧ t.deviceTrace = s.deviceTrace ++ [.read p.type (ea.toNat - p.start) n value] ∧
        s.SameRegistersBut t [X] ∧ s.SameBytes t ∧ t.power = s.power ∧ s.SameModes t ∧ s.SameFixed t)

end Sys2Proof.Claims

open Sys2Proof Sys2Proof.Machine Sys2Proof.Claims

/-! ## Encoding -/

/-- Decoding the word of any instruction gives that instruction, whatever its fields hold: as a word, as the opcode
table's number, and as the four bytes at the head of a list (30_encoding.md sections 1, 2 and 4). -/
def Obligations.DecodeInvertsEncode : Prop :=
  ∀ i : Instr, decode (encode i) = .ok i ∧ decodeTableWord 32 (encode i).toNat = some i ∧
    ∀ rest : List Byte, decodeBytes (encodeBytes i ++ rest) = .ok (i, rest)

/-- The decoder refuses a word if its opcode is one of the 147 unassigned ones, and only then; a step that has fetched it
from the memory reports it in ERR and ERRM and does nothing else (R114, R348, decision D11; a fetch from elsewhere is
`FetchesBeyondMemory`). -/
def Obligations.UnassignedOpcodesAreReported : Prop :=
  (∀ w : Word, decode w = .error .illegalOpcode ↔
      ∃ range ∈ unassignedOpcodes, range.1 ≤ w.toNat / 2 ^ 24 ∧ w.toNat / 2 ^ 24 ≤ range.2) ∧
    ((unassignedOpcodes.map fun range => range.2 + 1 - range.1).sum = 147) ∧
    ∀ (s : State) (w : Word), s.WillFetch w → s.zombie = false →
      (∃ range ∈ unassignedOpcodes, range.1 ≤ w.toNat / 2 ^ 24 ∧ w.toNat / 2 ^ 24 ≤ range.2) →
      ∃ u, s.Fetched w [] u ∧ Reports (step s) u .illegalOpcode w

/-- The 45 numbers 0x01 to 0x20 and 0x33 to 0x3F name the 45 registers, each its own; no other number names one; the
protected registers are PC, LIN, IR, NIN and ZERO (10_state.md sections 1, 2 and 7). -/
def Obligations.NumbersNameRegisters : Prop :=
  (∀ n : RegNumber, (Reg.ofNumber n).isSome = true ↔
      (1 ≤ n.toNat ∧ n.toNat ≤ 0x20) ∨ (0x33 ≤ n.toNat ∧ n.toNat ≤ 0x3F)) ∧
    (∀ n : RegNumber, RegNumber.valid n = (Reg.ofNumber n).isSome) ∧
    (∀ (n : RegNumber) (r : Reg), Reg.ofNumber n = some r ↔ n = r.number) ∧
    (∀ i : Fin 32, (Reg.gpr i).number.toNat = i.val + 1) ∧
    [Reg.pc, .sp, .fp, .lin, .ir, .nin, .stat, .err, .errm, .hi, .lo, .cmp, .zero].map Reg.number =
      [0x33, 0x34, 0x35, 0x36, 0x37, 0x38, 0x39, 0x3A, 0x3B, 0x3C, 0x3D, 0x3E, 0x3F] ∧
    ∀ r : Reg, r.writeProtected = true ↔ r.number ∈ protectedNumbers

/-- Words that spec/ prints with their instructions decode to them, one of each family (95_test_vectors.md sections 1
and 2). -/
def Obligations.SpecWordsDecode : Prop :=
  decode 0x02000001 = .ok (.crm 1) ∧ decode 0x1002FFFD = .ok (.set 2 0xFFFD) ∧
    decode 0x28020110 = .ok (.lbi 2 1 16) ∧ decode 0x3002013F = .ok (.sb 2 1 0x3F) ∧
    decode 0x42010000 = .ok (.push 1) ∧ decode 0x50010203 = .ok (.add 1 2 3) ∧
    decode 0x5A020204 = .ok (.subi 2 2 4) ∧ decode 0x68010200 = .ok (.div 1 2) ∧
    decode 0xA9040106 = .ok (.rotli 4 1 6) ∧ decode 0xB1010200 = .ok (.cmpu 1 2) ∧
    decode 0xD1000003 = .ok (.bne 3) ∧ decode 0xE0000028 = .ok (.call 40) ∧
    decode 0xF0000007 = .ok (.wake 7)

/-! ## The cycle -/

/-- Where the four bytes at PC lie in the memory and decode to an instruction, one step of a running machine that is no
zombie fetches them and runs that instruction on the fetched state (10_state.md section 6, decisions D34 and D35; R101,
R118; a fetch from elsewhere is `FetchesBeyondMemory`). -/
def Obligations.StepRunsDecodedInstruction : Prop :=
  ∀ (s : State) (w : Word) (i : Instr), s.WillFetch w → s.zombie = false → decode w = .ok i →
    ∃ u, s.Fetched w [] u ∧ step s = exec i u

/-- A zombie machine only fetches: every word in the memory but ALIV's has no effect, and ALIV ends the mode (10_state.md
section 3, decision D25; a fetch from elsewhere is `FetchesBeyondMemory`). -/
def Obligations.ZombieOnlyFetches : Prop :=
  ∀ (s : State) (w : Word), s.WillFetch w → s.zombie = true →
    ∃ u, s.Fetched w [] u ∧
      (w.toNat / 2 ^ 24 ≠ 0x0B → step s = .next u) ∧
      (w.toNat / 2 ^ 24 = 0x0B → step s = .next { u with zombie := false })

/-- A machine that is switched off or waits takes no step and changes nothing (10_state.md section 3, decision D31; that
a step then answers the same state is the model's choice, notes/assumptions/10.md). -/
def Obligations.StoppedMachineStays : Prop :=
  ∀ s : State, s.power ≠ .running → step s = .next s

/-- Where the four bytes at PC cannot be read, the run ends: ERR is marked, ERRM holds PC, the machine waits, and
nothing else changes (60_exceptions.md section 2, decisions D9 and D31). -/
def Obligations.FetchErrorEndsRun : Prop :=
  ∀ s : State, s.power = .running → s.CannotRead s.pc .word → Completes (step s) fun t =>
    (∀ k : Fin 32, t.err.getLsbD k = (s.err.getLsbD k || decide (k = s.params.errBits.bit .fetchError))) ∧
      t.errm = s.pc ∧ t.power = .waiting ∧ s.SameRegistersBut t [.err, .errm] ∧ s.SameBytes t ∧ s.SameModes t ∧
      s.SameFixed t ∧ t.deviceTrace = s.deviceTrace

/-! ## Power-up -/

/-- After power-up the general registers, PC and ZERO are zero and SP holds MEM_SIZE - 1 (R48, R49). -/
def Obligations.PowerUpRegisters : Prop :=
  ∀ (p : Params) (image : Memory), p.valid = true →
    (∀ i : Fin 32, (State.powerUp p image).content (.gpr i) = 0) ∧ (State.powerUp p image).content .pc = 0 ∧
      ((State.powerUp p image).content .sp).toNat = p.memSize - 1 ∧ (State.powerUp p image).content .zero = 0

/-- After power-up ERR is zero, the mode flags have the values of decision D29, the nine registers without a value of
their own have those of `RESET_SPECIALS`, and the memory is the image; `State.reset` is the power-up with the default
parameters and no program, whose `RESET_SPECIALS` are zero and whose switches have the defaults of the spec (decisions
D4, D8, D16, D18, D21, D27, D29, D30; notes/assumptions/1.md, 2.md and 21.md). -/
def Obligations.PowerUpModes : Prop :=
  (∀ (p : Params) (image : Memory),
      let s := State.powerUp p image
      s.power = .running ∧ s.runmode = .normal ∧ s.busOn = true ∧ s.protectOn = true ∧ s.zombie = false ∧
        s.osOn = true ∧ s.sysmode = 0 ∧ s.err = 0 ∧ s.mem = image ∧ s.busPorts = p.enumeratePorts ∧
        [s.fp, s.lin, s.ir, s.nin, s.stat, s.errm, s.hi, s.lo, s.cmp] =
          [p.resetSpecials.fp, p.resetSpecials.lin, p.resetSpecials.ir, p.resetSpecials.nin, p.resetSpecials.stat,
            p.resetSpecials.errm, p.resetSpecials.hi, p.resetSpecials.lo, p.resetSpecials.cmp]) ∧
    State.reset = State.powerUp Config.params [] ∧ Config.params.resetSpecials = ⟨0, 0, 0, 0, 0, 0, 0, 0, 0⟩ ∧
    Config.params.errHalts = false ∧ Config.params.negAccess = .mirrored ∧ Config.params.jmpSigned = true ∧
    Config.params.modWritesHiLo = false ∧ Config.params.callRet = .stackAbsolute ∧
    Config.params.wakeHandler = .recording

/-- The bits of ERR are those of the table of R345 unless a parameter says otherwise (decision D9). -/
def Obligations.ErrorBitsAtReset : Prop :=
  [ErrorCause.illegalOpcode, .badRegister, .writeProtected, .divideByZero, .spRange, .busError, .badOperand,
      .fetchError].map (fun e => (State.reset.params.errBits.bit e).val) = [0, 1, 2, 3, 4, 5, 6, 7]

/-- The memory's range begins at address 0, every further range follows the one before without a gap and in type order,
and all end below 2^31 (20_memory.md section 2, decision D2). -/
def Obligations.PortsAreConsecutive : Prop :=
  ∀ p : Params, p.valid = true →
    (p.enumeratePorts.head? = some ⟨0, 0, p.memSize⟩ ∧ Consecutive p.enumeratePorts ∧
      ∀ q ∈ p.enumeratePorts, q.start + q.length ≤ 2 ^ 31) ∧
      (p.extraPorts = [] →
        p.enumeratePorts = [⟨0, 0, p.memSize⟩, ⟨1, p.memSize, 64⟩, ⟨2, p.memSize + 64, 64⟩])

/-- Byte reads at the negative addresses give the bus table, whatever ports the machine has: the number of ports at -1,
entry i with its start at -2-9i, its length at -6-9i and its type at -10-9i, zero behind the last entry down to -2306,
and nothing is served below. With the three minimal ports these are the bytes of R69 (20_memory.md section 3, decisions
D3 and D6; which further ports there can be is the model's choice, notes/assumptions/22.md). -/
def Obligations.BusTableDescribesPorts : Prop :=
  ∀ s : State, s.Sound →
    (TableHolds s 1 (BitVec.ofNat 8 s.busPorts.length) ∧ s.busPorts.length ≤ 255) ∧
    (∀ (i : Nat) (p : Port), s.busPorts[i]? = some p →
      TableHoldsNumber s (2 + 9 * i) p.start ∧ TableHoldsNumber s (6 + 9 * i) p.length ∧
        TableHolds s (10 + 9 * i) p.type ∧ p.start + p.length ≤ 2 ^ 31) ∧
    (∀ k : Nat, 2 + 9 * s.busPorts.length ≤ k → k ≤ 2306 → TableHolds s k 0) ∧
    (∀ k : Nat, 2306 < k → k ≤ 2 ^ 31 → memRead s (BitVec.ofInt 32 (-k)) .byte = none) ∧
    (s.params.extraPorts = [] → ∀ k : Nat, 1 ≤ k → k ≤ 2306 →
      TableHolds s k ((minimalTable s.params.memSize)[k - 1]?.getD 0))

/-! ## Rules about every instruction -/

/-- An instruction with a register field that names no register is reported with the word in IR (decision D12 for the
numbers other than zero; 30_encoding.md section 4). -/
def Obligations.BadRegistersAreReported : Prop :=
  ∀ (i : Instr) (s : State), i.wellFormed = false → s.protectOn = true → Reports (exec i s) s .badRegister s.ir

/-- An instruction whose destination is write-protected is reported with the register's number, X before Y
(60_exceptions.md section 2, decision D13). -/
def Obligations.ProtectedDestinationsAreReported : Prop :=
  ∀ (i : Instr) (s : State) (x : RegNumber), i.wellFormed = true → s.protectOn = true →
    (i.usesBus = true → s.busOn = true) → i.destinations.find? (fun r => r ∈ protectedNumbers) = some x →
    Reports (exec i s) s .writeProtected (x.setWidth 32)

/-- While the protection mechanisms are off, an instruction that violates one of them stops the model with a fault that
names the violation: a bad register number, a protected destination, and a value above MEM_MAX about to be written to
SP, by any instruction that writes SP. The spec leaves the behaviour unspecified and recommends this (60_exceptions.md
section 3, decision D24; the model's choice, notes/assumptions/7.md). -/
def Obligations.ViolationsAfterTrstStop : Prop :=
  ∀ s : State, s.protectOn = false →
    (∀ i : Instr, i.wellFormed = false → exec i s = .fault (.protectionOff .badRegister)) ∧
      (∀ i : Instr, i.wellFormed = true → (i.usesBus = true → s.busOn = true) →
        (∃ x ∈ i.destinations, x ∈ protectedNumbers) → exec i s = .fault (.protectionOff .writeProtected)) ∧
      (∀ (i : Instr) (v : Word), SpWrite s i v → s.params.memMax < v.toNat →
        exec i s = .fault (.protectionOff .spRange)) ∧
      (∀ (i : Instr) (v : Word), SpWriteOnBus s i v → s.busOn = true → s.params.memMax < v.toNat →
        exec i s = .fault (.protectionOff .spRange))

/-- While the bus is off, the loads, stores, pushes, pops, CALL and RET do nothing at all (10_state.md section 3, decision
D26). -/
def Obligations.BusInstructionsIdleWhileBusOff : Prop :=
  ∀ (i : Instr) (s : State), i.usesBus = true → i.wellFormed = true → s.busOn = false → exec i s = .next s

/-- In EXECUTE only the branches and jumps, GO, CALL, RET and RSR change PC, and only RSR changes LIN, IR and NIN, but for
what an operating system of the environment does on WAKE (10_state.md section 2; RSR by decision D28). -/
def Obligations.OnlyJumpsChangePc : Prop :=
  ∀ (i : Instr) (s t : State), exec i s = .next t → ¬ s.CallsEnvironment i →
    (opcodeOf (encode i) ∉ pcWriters → t.pc = s.pc) ∧
      (i ≠ .rsr → t.lin = s.lin ∧ t.ir = s.ir ∧ t.nin = s.nin)

/-- No bit of ERR is ever cleared but by an instruction that names ERR as its destination, by RSR, and by an operating
system of the environment (60_exceptions.md section 2, decision D10). -/
def Obligations.ErrorBitsStay : Prop :=
  ∀ (i : Instr) (s t : State), exec i s = .next t → ¬ s.CallsEnvironment i → i ≠ .rsr →
    Reg.err.number ∉ i.destinations → ∀ k : Nat, s.err.getLsbD k = true → t.err.getLsbD k = true

/-- Each mode flag is changed by its own instructions and by RSR only, and `power` besides by an error under `ERR_HALTS`,
but for what an operating system of the environment does on WAKE (60_exceptions.md section 3, decisions D8, D22 and
D28). -/
def Obligations.ModesChangeOnlyOnRequest : Prop :=
  ∀ (i : Instr) (s t : State), exec i s = .next t → ¬ s.CallsEnvironment i → i ≠ .rsr →
    (t.runmode ≠ s.runmode → ∃ n, i = .crm n) ∧
      (t.busOn ≠ s.busOn → i = .autsm ∨ i = .socl) ∧
      (t.protectOn ≠ s.protectOn → i = .hate ∨ i = .trst) ∧
      (t.zombie ≠ s.zombie → i = .zmb ∨ i = .aliv) ∧
      (t.osOn ≠ s.osOn → i = .kill) ∧
      (t.sysmode ≠ s.sysmode → ∃ n, i = .csm n) ∧
      (t.power ≠ s.power → i = .die ∨ (s.params.errHalts = true ∧ t.power = .waiting))

/-- A step never changes the parameters, nor the bus's list once it is built, and what has been recorded of the devices
and of WAKE stays recorded, whatever operating system stands behind WAKE (00_scope.md section 3; 20_memory.md section 3;
60_exceptions.md section 5; that such a system leaves the traces is the model's choice, notes/assumptions/9.md). -/
def Obligations.ParametersStay : Prop :=
  ∀ s t : State, step s = .next t →
    t.params = s.params ∧ (s.busPorts = s.params.enumeratePorts → t.busPorts = s.busPorts) ∧
      (∃ calls, t.deviceTrace = s.deviceTrace ++ calls) ∧ (∃ codes, t.wakeTrace = s.wakeTrace ++ codes)

/-- Only the stores, the pushes and CALL change a byte of memory, but for an operating system of the environment on WAKE
(20_memory.md section 1). -/
def Obligations.OnlyStoresChangeMemory : Prop :=
  ∀ (i : Instr) (s t : State), exec i s = .next t → ¬ s.CallsEnvironment i →
    opcodeOf (encode i) ∉ memoryWriters → s.SameBytes t

/-- A general register changes only where an instruction names it as a destination, by RST and RSR, and by an operating
system of the environment on WAKE (10_state.md section 1). -/
def Obligations.GeneralRegistersChangeOnlyWhenNamed : Prop :=
  ∀ (i : Instr) (s t : State) (k : Fin 32), exec i s = .next t → ¬ s.CallsEnvironment i → i ≠ .rst → i ≠ .rsr →
    (Reg.gpr k).number ∉ i.destinations → t.content (.gpr k) = s.content (.gpr k)

/-- There are no traps: while the protection mechanisms are on every step answers a next state, and no step is ever
refused (60_exceptions.md sections 2 and 3, decisions D8 and D24; the fault after TRST is the model's choice,
notes/assumptions/7.md). -/
def Obligations.StepsAnswerAState : Prop :=
  (∀ s : State, s.protectOn = true → s.Progresses) ∧ ∀ (s : State) (r : Refusal), step s ≠ .refused r

/-- Every step keeps a state sound, whatever operating system stands behind WAKE: parameters the spec allows, the bus's
list built from them, the memory in canonical form and within its port; and it keeps SP within the memory, unless an
operating system of the environment puts it elsewhere (10_state.md section 2; 20_memory.md sections 2 and 3;
notes/assumptions/9.md). -/
def Obligations.StepKeepsInvariant : Prop :=
  (∀ s t : State, s.Sound → step s = .next t → t.Sound) ∧
    ∀ s t : State, s.Inv → HandlerKeepsSp s.params → step s = .next t → t.Inv

/-- The invariant holds right after power-up with any allowed parameters and any image within the memory, and so at
`State.reset` (70_reset_and_hazards.md section 1, decisions D1 and D30). -/
def Obligations.PowerUpIsSound : Prop :=
  (∀ (p : Params) (image : Memory), p.valid = true → Memory.wf image = true → Memory.below p.memSize image = true →
      (State.powerUp p image).Inv) ∧ State.reset.Inv

/-- Whatever program a machine is started with, every state it reaches is sound and has the bus's list as it was built at
power-up, and has its stack pointer within the memory unless an operating system of the environment puts it elsewhere
(10_state.md section 2; 20_memory.md sections 2 and 3; notes/assumptions/9.md). -/
def Obligations.ReachableStatesAreSound : Prop :=
  ∀ (p : Params) (image : Memory) (k : Nat) (t : State), p.valid = true → Memory.wf image = true →
    Memory.below p.memSize image = true → Reaches (State.powerUp p image) k t →
    t.Sound ∧ t.params = p ∧ t.busPorts = p.enumeratePorts ∧ (HandlerKeepsSp p → t.Inv ∧ t.sp.toNat < p.memSize)

/-- Single-step mode and the system mode have no influence on what a step does to anything else, with the default
operating system (10_state.md section 3, decisions D22, D27 and D32). -/
def Obligations.RunModeAndSystemModeAreInert : Prop :=
  ∀ (s t : State) (r : RunMode) (m : BitVec 24), s.params.wakeHandler = .recording → step s = .next t →
    ∃ (r' : RunMode) (m' : BitVec 24),
      step { s with runmode := r, sysmode := m } = .next { t with runmode := r', sysmode := m' }

/-! ## Control and system instructions -/

/-- NOP does nothing and RST sets the 32 general registers to zero and nothing else, whatever their unused bytes hold
(R130, R131). -/
def Obligations.NopAndRst : Prop :=
  (∀ unused : BitVec 24, decode (0x00#8 ++ unused) = .ok .nop ∧ decode (0x01#8 ++ unused) = .ok .rst) ∧
    (∀ s : State, exec .nop s = .next s) ∧
    ∀ s : State, Completes (exec .rst s) fun t =>
      (∀ i : Fin 32, t.content (.gpr i) = 0) ∧
        (∀ r : Reg, (∀ i, r ≠ .gpr i) → t.content r = s.content r) ∧ s.SameBytes t ∧ s.SameMachine t

/-- SOCL switches the bus on and KILL switches WAKE off, which only RSR undoes; nothing else changes (R137, R331). -/
def Obligations.SoclAndKill : Prop :=
  (∀ unused : BitVec 24, decode (0x07#8 ++ unused) = .ok .socl ∧ decode (0xF8#8 ++ unused) = .ok .kill) ∧
    (∀ s : State, exec .socl s = .next { s with busOn := true }) ∧
    (∀ s : State, exec .kill s = .next { s with osOn := false }) ∧
    (∀ (s : State) (n : BitVec 24), s.osOn = false → exec (.wake n) s = .next s) ∧
    ∀ (i : Instr) (s t : State), exec i s = .next t → s.osOn = false → t.osOn = true → i = .rsr

/-- AUTSM, HATE, TRST, ZMB, ALIV, DIE and CSM each set one mode flag, whatever their unused bytes hold, and nothing else
changes (40_control.md, decisions D22 and D28). -/
def Obligations.ModeInstructionsSetTheirFlag : Prop :=
  (∀ unused : BitVec 24, decode (0x04#8 ++ unused) = .ok .die ∧ decode (0x06#8 ++ unused) = .ok .autsm ∧
      decode (0x08#8 ++ unused) = .ok .hate ∧ decode (0x09#8 ++ unused) = .ok .trst ∧
      decode (0x0A#8 ++ unused) = .ok .zmb ∧ decode (0x0B#8 ++ unused) = .ok .aliv) ∧
    (∀ n : BitVec 24, decode (0x03#8 ++ n) = .ok (.csm n)) ∧
    ∀ s : State,
      exec .die s = .next { s with power := .off } ∧ exec .autsm s = .next { s with busOn := false } ∧
        exec .hate s = .next { s with protectOn := true } ∧ exec .trst s = .next { s with protectOn := false } ∧
        exec .zmb s = .next { s with zombie := true } ∧ exec .aliv s = .next { s with zombie := false } ∧
        ∀ n : BitVec 24, exec (.csm n) s = .next { s with sysmode := n }

/-- CRM 0 selects normal mode and CRM 1 single-step mode; any other operand is reported (40_control.md, decision D23). -/
def Obligations.CrmSelectsRunMode : Prop :=
  ∀ n : BitVec 24, decode (0x02#8 ++ n) = .ok (.crm n) ∧ ∀ s : State,
    (n = 0 → exec (.crm n) s = .next { s with runmode := .normal }) ∧
      (n = 1 → exec (.crm n) s = .next { s with runmode := .single }) ∧
      (2 ≤ n.toNat → Reports (exec (.crm n) s) s .badOperand s.ir)

/-- RSR gives every register and mode flag its power-up value and rebuilds the bus's list; the memory and what is
recorded of devices and WAKE stay (40_control.md, decision D28). The spec leaves FP, LIN, IR, NIN, STAT, ERRM, HI, LO
and CMP unspecified after RSR (R389); that they take the values of `RESET_SPECIALS` again, and that the model's counter
stays, are the model's choices (notes/assumptions/2.md and 12.md). -/
def Obligations.RsrRestarts : Prop :=
  (∀ unused : BitVec 24, decode (0x05#8 ++ unused) = .ok .rsr) ∧
    ∀ s : State, Completes (exec .rsr s) fun t =>
      (∀ r : Reg, t.content r = (State.powerUp s.params s.mem).content r) ∧ s.SameBytes t ∧ t.power = .running ∧
        (State.powerUp s.params s.mem).SameModes t ∧ t.busPorts = s.params.enumeratePorts ∧ t.params = s.params ∧
        t.deviceTrace = s.deviceTrace ∧ t.wakeTrace = s.wakeTrace ∧ t.tick = s.tick

/-- WAKE hands its action code and the machine state to the operating system that the parameter `WAKE_HANDLER` names. The
default one records the code and leaves the machine as it is. With the environment's the machine goes on with the
registers, the mode flags and the memory bytes it gives back; the parameters, the bus's list and the traces stay, the
model's choice. After KILL nothing happens (48_system.md, decision D27; notes/assumptions/9.md). -/
def Obligations.WakeCallsTheHandler : Prop :=
  (∀ n : BitVec 24, decode (0xF0#8 ++ n) = .ok (.wake n)) ∧
    (∀ (n : BitVec 24) (s : State), s.osOn = false → exec (.wake n) s = .next s) ∧
    (∀ (n : BitVec 24) (s : State), s.osOn = true → s.params.wakeHandler = .recording →
      exec (.wake n) s = .next { s with wakeTrace := s.wakeTrace ++ [n] }) ∧
    (∀ (n : BitVec 24) (s : State), s.osOn = true → s.params.wakeHandler = .environment →
      Completes (exec (.wake n) s) fun t =>
        (∀ r : Reg, t.content r = (Config.wakeHandler n s).content r) ∧
          (∀ a : Nat, Memory.read t.mem a =
            if a < s.params.memSize then Memory.read (Config.wakeHandler n s).mem a else unwrittenByte) ∧
          t.power = (Config.wakeHandler n s).power ∧ (Config.wakeHandler n s).SameModes t ∧ s.SameFixed t ∧
          t.deviceTrace = s.deviceTrace) ∧
    ∀ (handler : BitVec 24 → State → State) (n : BitVec 24) (s : State),
      execWakeWith handler n s = .next (if s.osOn then handler n s else s)

/-! ## Constants, moves -/

/-- SET and SETU write the sign- and the zero-extended number, COPY the content of Y (R150 to R152; the refusals by
decisions D12, D13 and D36). -/
def Obligations.SetAndCopy : Prop :=
  WritesRNN 0x10 .set (fun n => n.signExtend 32) ∧ WritesRNN 0x11 .setu (fun n => n.setWidth 32) ∧
    WritesRR0 0x18 .copy (fun y => y)

/-- MOVE copies Y to X and sets Y to zero; both are destinations, and both writes happen or neither (R153; the refusals
by decisions D12, D13, D36 and D39). -/
def Obligations.MoveClearsItsSource : Prop :=
  (∀ (x y : RegNumber) (unused : Byte), decode (wordOfBytes 0x1A x y unused) = .ok (.move x y) ∧
      RefusesBadRegister (.move x y) [x, y]) ∧
    ∀ (X Y : Reg) (s : State),
      (s.protectOn = true → X.writeProtected = true →
        Reports (exec (.move X.number Y.number) s) s .writeProtected (zext X.number)) ∧
      (s.protectOn = true → X.writeProtected = false → Y.writeProtected = true →
        Reports (exec (.move X.number Y.number) s) s .writeProtected (zext Y.number)) ∧
      (s.protectOn = true → X = .sp → Y.writeProtected = false → s.params.memMax < (s.operand .y Y).toNat →
        Reports (exec (.move X.number Y.number) s) s .spRange (s.operand .y Y)) ∧
      (X.writeProtected = false → Y.writeProtected = false → (X = .sp → (s.operand .y Y).toNat ≤ s.params.memMax) →
        Completes (exec (.move X.number Y.number) s) fun t =>
          t.content Y = 0 ∧ (X ≠ Y → t.content X = s.operand .y Y) ∧ s.OnlyRegisters t [X, Y])

/-! ## Loads and stores -/

/-- The effective address is the sum of base and offset modulo 2^32 (20_memory.md section 6, decision D5). -/
def Obligations.EffectiveAddressWraps : Prop :=
  ∀ base offset : Word, effectiveAddress base offset = base + offset ∧
    (effectiveAddress base offset).toNat = (base.toNat + offset.toNat) % 2 ^ 32

/-- Each of the twelve loads decodes from its word, and where all its bytes lie in the memory it writes them to the low
bytes of X, the byte at the lowest address being the most significant of them; the other bytes of X and everything else
stay (41_set_copy_load.md section 2; 20_memory.md section 4; the refusals by decisions D13 and D36). -/
def Obligations.LoadsFromMemory : Prop :=
  ∀ (w : Word) (i : Instr) (X : Reg) (address : State → Word) (n : Width), LoadForm w i X address n →
    decode w = .ok i ∧ ∀ (s : State) (v : Word), s.busPorts = s.params.enumeratePorts → s.busOn = true →
      (address s).toNat + n.bytes ≤ s.params.memSize →
      Merged (s.operand .x X) n (fun j => Memory.read s.mem ((address s).toNat + j)) v → OperandWrite (exec i s) s X v

/-- A load at a negative address reads the bus table, in the direction that `NEG_ACCESS` names (20_memory.md sections 3
and 4, decisions D3, D4 and D6). -/
def Obligations.LoadsFromBusTable : Prop :=
  ∀ (w : Word) (i : Instr) (X : Reg) (address : State → Word) (n : Width), LoadForm w i X address n →
    ∀ (s : State) (v : Word) (byteAt : Nat → Byte), s.busOn = true → (address s).toInt < 0 →
      s.TableBytes (-(address s).toInt).toNat n byteAt → Merged (s.operand .x X) n byteAt v →
      OperandWrite (exec i s) s X v

/-- A load whose bytes all lie in a device port's range asks the device once, for all n bytes, and writes what it
answers to the low bytes of X; the answer is any value (20_memory.md sections 5 and 6, decision D7; where X is refused
the call leaves no trace, the model's choice, notes/assumptions/8.md). -/
def Obligations.LoadsFromDevices : Prop :=
  ∀ (w : Word) (i : Instr) (X : Reg) (address : State → Word) (n : Width), LoadForm w i X address n →
    ∀ (s : State) (p : Port), s.Inv → s.busOn = true → p ∈ s.busPorts → p.type ≠ memoryType →
      p.start ≤ (address s).toNat → (address s).toNat + n.bytes ≤ p.start + p.length →
      DeviceLoad (exec i s) s X (address s) n p

/-- A load that the bus cannot serve is reported with its effective address, after the destination check
(60_exceptions.md section 2; 20_memory.md section 4; decision D6). -/
def Obligations.UnservedLoadsAreReported : Prop :=
  ∀ (w : Word) (i : Instr) (X : Reg) (address : State → Word) (n : Width), LoadForm w i X address n →
    ∀ s : State, s.busOn = true → X.writeProtected = false → s.CannotRead (address s) n →
      Reports (exec i s) s .busError (address s)

/-- Each of the twelve stores decodes from its word, and where all its bytes lie in the memory it stores the low bytes
of X there, the most significant first; no other byte, no register and nothing else changes (42_store_stack.md section
1; 20_memory.md section 4). -/
def Obligations.StoresToMemory : Prop :=
  ∀ (w : Word) (i : Instr) (X : Reg) (address : State → Word) (n : Width), StoreForm w i X address n →
    decode w = .ok i ∧ ∀ s : State, s.Inv → s.busOn = true → (address s).toNat + n.bytes ≤ s.params.memSize →
      Completes (exec i s) fun t =>
        Holds t.mem (address s).toNat n (s.operand .x X) ∧ s.SameBytesOutside t (address s).toNat n.bytes ∧
          s.SameRegistersBut t [] ∧ s.SameMachine t

/-- A store whose bytes all lie in a device port's range is one output event with the port's type, the offset, the width
and the low bytes of X; no memory byte, no register and nothing else changes (20_memory.md sections 4 and 5, decision
D7). -/
def Obligations.StoresToDevices : Prop :=
  ∀ (w : Word) (i : Instr) (X : Reg) (address : State → Word) (n : Width), StoreForm w i X address n →
    ∀ (s : State) (p : Port) (value : Word), s.Inv → s.busOn = true → p ∈ s.busPorts → p.type ≠ memoryType →
      p.start ≤ (address s).toNat → (address s).toNat + n.bytes ≤ p.start + p.length →
      Merged 0 n (fun j => byteOf (s.operand .x X) (n.bytes - 1 - j)) value →
      Completes (exec i s) fun t =>
        t.deviceTrace = s.deviceTrace ++ [.write p.type ((address s).toNat - p.start) n value] ∧
          s.SameBytes t ∧ s.SameRegistersBut t [] ∧ t.power = s.power ∧ s.SameModes t ∧ s.SameFixed t

/-- A store that no port takes, and every store to a negative address, is reported with its effective address
(60_exceptions.md section 2; 20_memory.md section 4; decision D6). -/
def Obligations.UnservedStoresAreReported : Prop :=
  ∀ (w : Word) (i : Instr) (X : Reg) (address : State → Word) (n : Width), StoreForm w i X address n →
    ∀ s : State, s.busOn = true → s.CannotWrite (address s) n → Reports (exec i s) s .busError (address s)

/-- A word that a store has put into the memory is the word that is fetched from there, and runs (20_memory.md section
7, decision D37). -/
def Obligations.StoredWordsAreFetched : Prop :=
  ∀ (w : Word) (i : Instr) (X : Reg) (address : State → Word), StoreForm w i X address .word →
    ∀ (s t : State) (j : Instr), s.Inv → s.busOn = true → (address s).toNat + 4 ≤ s.params.memSize →
      exec i s = .next t → t.power = .running → t.zombie = false → decode (s.operand .x X) = .ok j →
      ∃ u, State.Fetched { t with pc := address s } (s.operand .x X) [] u ∧ step { t with pc := address s } = exec j u

/-! ## The stack -/

/-- A push lowers SP by n and stores the low n bytes of X at the new SP, `PUSH SP` the lowered SP; a push with SP below n
is reported and does nothing (42_store_stack.md section 2; the refusal by decision D36). -/
def Obligations.PushesStoreBelow : Prop :=
  ∀ (w : Word) (i : Instr) (X : Reg) (n : Width), PushForm w i X n → decode w = .ok i ∧
    ∀ s : State, s.Inv → s.busOn = true → pushTop s n = s.sp - BitVec.ofNat 32 n.bytes ∧
      (s.sp.toNat < n.bytes → s.protectOn = true → Reports (exec i s) s .spRange (pushTop s n)) ∧
      (n.bytes ≤ s.sp.toNat → Completes (exec i s) fun t =>
        t.sp = pushTop s n ∧ Holds t.mem (pushTop s n).toNat n (if X = .sp then pushTop s n else s.operand .x X) ∧
          s.SameBytesOutside t (pushTop s n).toNat n.bytes ∧ s.SameRegistersBut t [.sp] ∧ s.SameMachine t)

/-- A pop writes the n bytes at SP to the low bytes of X and raises SP by n, `POP SP` from the value loaded. A protected
X, a read beyond the end of the memory and an SP above it are reported, in this order, and then nothing has happened
(42_store_stack.md section 2; the refusals by decisions D6, D13, D36 and D38). -/
def Obligations.PopsLoadFromTop : Prop :=
  ∀ (w : Word) (i : Instr) (X : Reg) (n : Width), PopForm w i X n → decode w = .ok i ∧
    ∀ s : State, s.Inv → s.busOn = true →
      (X.writeProtected = true → s.protectOn = true → Reports (exec i s) s .writeProtected (zext X.number)) ∧
      (X.writeProtected = false → s.params.memSize < s.sp.toNat + n.bytes →
        Reports (exec i s) s .busError s.sp) ∧
      ∀ v : Word, X.writeProtected = false → s.sp.toNat + n.bytes ≤ s.params.memSize →
        Merged (s.operand .x X) n (fun j => Memory.read s.mem (s.sp.toNat + j)) v →
        (X ≠ .sp →
          (s.sp.toNat + n.bytes = s.params.memSize → s.protectOn = true →
            Reports (exec i s) s .spRange (s.sp + BitVec.ofNat 32 n.bytes)) ∧
          (s.sp.toNat + n.bytes < s.params.memSize → Completes (exec i s) fun t =>
            t.content X = v ∧ t.sp = s.sp + BitVec.ofNat 32 n.bytes ∧ s.OnlyRegisters t [X, .sp])) ∧
        (X = .sp →
          (s.params.memMax < v.toNat → s.protectOn = true → Reports (exec i s) s .spRange v) ∧
          (v.toNat ≤ s.params.memMax → s.params.memMax < v.toNat + n.bytes → s.protectOn = true →
            Reports (exec i s) s .spRange (v + BitVec.ofNat 32 n.bytes)) ∧
          (v.toNat + n.bytes ≤ s.params.memMax → Completes (exec i s) fun t =>
            t.sp = v + BitVec.ofNat 32 n.bytes ∧ s.OnlyRegisters t [.sp]))

/-- A POP after a PUSH gives back what was pushed and leaves SP where it was (42_store_stack.md section 2). -/
def Obligations.PopAfterPushReturnsTheWord : Prop :=
  ∀ (X Y : Reg) (s : State), s.Inv → s.busOn = true → 4 ≤ s.sp.toNat → X ≠ .sp → Y ≠ .sp →
    Y.writeProtected = false →
    ∃ t u, exec (.push X.number) s = .next t ∧ exec (.pop Y.number) t = .next u ∧
      u.content Y = s.operand .x X ∧ u.sp = s.sp ∧ s.SameRegistersBut u [Y]

/-- CALL pushes the PC that has already advanced as a word and continues at the absolute byte address; RET continues at
the word on top of the stack and drops it. Both are reported where SP leaves the memory, RET before that where its read
does, and then nothing has happened (47_subprogram.md, the reading of decision D21; notes/assumptions/11.md). -/
def Obligations.CallAndRet : Prop :=
  (∀ n : BitVec 24, decode (0xE0#8 ++ n) = .ok (.call n)) ∧
    (∀ unused : BitVec 24, decode (0xE1#8 ++ unused) = .ok .ret) ∧
    ∀ s : State, s.Inv → s.params.callRet = .stackAbsolute → s.busOn = true →
      (∀ n : BitVec 24, (s.sp.toNat < 4 → s.protectOn = true →
          Reports (exec (.call n) s) s .spRange (pushTop s .word)) ∧
        (4 ≤ s.sp.toNat → Completes (exec (.call n) s) fun t =>
          t.pc = n.setWidth 32 ∧ t.sp = pushTop s .word ∧ Holds t.mem (pushTop s .word).toNat .word s.pc ∧
            s.SameBytesOutside t (pushTop s .word).toNat 4 ∧ s.SameRegistersBut t [.pc, .sp] ∧ s.SameMachine t)) ∧
      (s.params.memSize < s.sp.toNat + 4 → Reports (exec .ret s) s .busError s.sp) ∧
      (s.sp.toNat + 4 = s.params.memSize → s.protectOn = true → Reports (exec .ret s) s .spRange (s.sp + 4)) ∧
      (s.sp.toNat + 4 < s.params.memSize → Completes (exec .ret s) fun t =>
        t.pc = s.wordAt s.sp.toNat ∧ t.sp = s.sp + 4 ∧ s.OnlyRegisters t [.pc, .sp])

/-! ## Arithmetic -/

/-- ADD, ADDU, ADDI, ADDIU, SUB, SUBU, SUBI, SUBIU write the sum or difference modulo 2^32, the immediate sign-extended
for ADDI and SUBI and zero-extended for ADDIU and SUBIU (R210 to R217; wrapping by decision D15, the refusals by D12,
D13 and D36). -/
def Obligations.AddAndSubtract : Prop :=
  WritesRRR 0x50 .add (fun y z => y + z) ∧ WritesRRR 0x51 .addu (fun y z => y + z) ∧
    WritesRRN 0x52 .addi (fun y n => y + n.signExtend 32) ∧ WritesRRN 0x53 .addiu (fun y n => y + n.setWidth 32) ∧
    WritesRRR 0x58 .sub (fun y z => y - z) ∧ WritesRRR 0x59 .subu (fun y z => y - z) ∧
    WritesRRN 0x5A .subi (fun y n => y - n.signExtend 32) ∧ WritesRRN 0x5B .subiu (fun y n => y - n.setWidth 32)

/-- ABS, NEG, INC and DEC, modulo 2^32: the absolute value and the negation of -2^31 are the pattern itself (R231 to
R234; wrapping by decision D15, the refusals by D12, D13 and D36). -/
def Obligations.OneOperandArithmetic : Prop :=
  WritesRR0 0x78 .abs (fun y => if y.toInt < 0 then -y else y) ∧ WritesRR0 0x80 .neg (fun y => -y) ∧
    WritesR00 0x81 .inc (fun x => x + 1) ∧ WritesR00 0x82 .dec (fun x => x - 1)

/-- MUL and MULI leave the exact 64-bit product of the signed operands in HI and LO, MULU and MULIU that of the unsigned
ones; MULD writes the low 32 bits of a product to X and leaves HI and LO (R218 to R222; the refusals by decisions D12,
D13 and D36). -/
def Obligations.Multiply : Prop :=
  ReadsRR0 0x60 .mul SignedProduct ∧ ReadsRR0 0x61 .mulu UnsignedProduct ∧
    ReadsRNN 0x62 .muli (fun n => n.signExtend 32) SignedProduct ∧
    ReadsRNN 0x63 .muliu (fun n => n.setWidth 32) UnsignedProduct ∧ WritesRRR 0x64 .muld (fun y z => y * z)

/-- DIV and DIVI divide the signed operands, rounding toward zero, DIVU and DIVIU the unsigned ones; HI is the quotient,
LO the remainder, and a divisor of zero is reported (R224 to R227; decisions D12, D14 and D15). -/
def Obligations.DivideIntoHiAndLo : Prop :=
  ReadsRR0 0x68 .div SignedDivision ∧ ReadsRR0 0x69 .divu UnsignedDivision ∧
    ReadsRNN 0x6A .divi (fun n => n.signExtend 32) SignedDivision ∧
    ReadsRNN 0x6B .diviu (fun n => n.setWidth 32) UnsignedDivision

/-- DIVD writes the signed quotient, rounded toward zero, to X and leaves HI and LO; MOD and MODI write the unsigned
remainder and leave HI and LO unless `MOD_WRITES_HILO` is set; a divisor of zero is reported after the destination check
and before SP's range (R228 to R230; decisions D12, D13, D14, D16, D36 and D38). Under `MOD_WRITES_HILO` HI and LO are
written before X, so that X holds the remainder where it is HI or LO itself, which D16 does not say: the model's choice,
notes/assumptions/18.md. -/
def Obligations.DivideDirectAndRemainder : Prop :=
  (∀ x y z : RegNumber, decode (wordOfBytes 0x6C x y z) = .ok (.divd x y z) ∧
      decode (wordOfBytes 0x70 x y z) = .ok (.mod x y z) ∧ decode (wordOfBytes 0x72 x y z) = .ok (.modi x y z) ∧
      RefusesBadRegister (.divd x y z) [x, y, z] ∧ RefusesBadRegister (.mod x y z) [x, y, z] ∧
      RefusesBadRegister (.modi x y z) [x, y]) ∧
    (∀ (X Y Z : Reg) (s : State),
      DivisionChecks (exec (.divd X.number Y.number Z.number) s) s X (s.operand .z Z) ∧
        (s.operand .z Z ≠ 0 → OperandWrite (exec (.divd X.number Y.number Z.number) s) s X
          (BitVec.ofInt 32 ((s.operand .y Y).toInt.tdiv (s.operand .z Z).toInt)))) ∧
    (∀ (X Y Z : Reg) (s : State),
      Remainder (exec (.mod X.number Y.number Z.number) s) s X (s.operand .y Y) (s.operand .z Z)) ∧
    ∀ (X Y : Reg) (n : BitVec 8) (s : State),
      Remainder (exec (.modi X.number Y.number n) s) s X (s.operand .y Y) (n.setWidth 32)

/-! ## Logic, shifts, rotates -/

/-- The twelve bitwise instructions (R250 to R261; NOTI's full field by decision D41, the refusals by D12, D13 and
D36). -/
def Obligations.BitwiseLogic : Prop :=
  WritesRRR 0x90 .and (fun y z => y &&& z) ∧ WritesRRN 0x91 .andi (fun y n => y &&& n.setWidth 32) ∧
    WritesRRR 0x92 .or (fun y z => y ||| z) ∧ WritesRRN 0x93 .ori (fun y n => y ||| n.setWidth 32) ∧
    WritesRRR 0x94 .xor (fun y z => y ^^^ z) ∧ WritesRRN 0x95 .xori (fun y n => y ^^^ n.setWidth 32) ∧
    WritesRR0 0x96 .not (fun y => ~~~y) ∧ WritesRNN 0x97 .noti (fun n => ~~~(n.setWidth 32)) ∧
    WritesRRR 0x98 .nand (fun y z => ~~~(y &&& z)) ∧ WritesRRN 0x99 .nandi (fun y n => ~~~(y &&& n.setWidth 32)) ∧
    WritesRRR 0x9A .nor (fun y z => ~~~(y ||| z)) ∧ WritesRRN 0x9B .nori (fun y n => ~~~(y ||| n.setWidth 32))

/-- The shifts move Y by the whole unsigned amount, which leaves zeros or sign bits where it is 32 or more, and the
rotates by the amount modulo 32 (R262 to R271; decision D17, the refusals by D12, D13 and D36). -/
def Obligations.ShiftAndRotate : Prop :=
  WritesRRR 0xA0 .shl (fun y z => y <<< z.toNat) ∧ WritesRRN 0xA1 .shli (fun y n => y <<< n.toNat) ∧
    WritesRRR 0xA2 .shr (fun y z => y >>> z.toNat) ∧ WritesRRN 0xA3 .shri (fun y n => y >>> n.toNat) ∧
    WritesRRR 0xA4 .shra (fun y z => y.sshiftRight z.toNat) ∧ WritesRRN 0xA5 .shrai (fun y n => y.sshiftRight n.toNat) ∧
    WritesRRR 0xA8 .rotl (fun y z => y <<< (z.toNat % 32) ||| y >>> (32 - z.toNat % 32)) ∧
    WritesRRN 0xA9 .rotli (fun y n => y <<< (n.toNat % 32) ||| y >>> (32 - n.toNat % 32)) ∧
    WritesRRR 0xAA .rotr (fun y z => y >>> (z.toNat % 32) ||| y <<< (32 - z.toNat % 32)) ∧
    WritesRRN 0xAB .rotri (fun y n => y >>> (n.toNat % 32) ||| y <<< (32 - n.toNat % 32))

/-! ## Compares, branches, jumps -/

/-- CMP and CMPI compare signed, CMPU and CMPIU unsigned numbers; the register CMP takes -1, 0 or +1 and nothing else
changes (R291 to R294; the refusal by decision D12). -/
def Obligations.Compare : Prop :=
  ReadsRR0 0xB0 .cmp (Comparison BitVec.slt) ∧ ReadsRR0 0xB1 .cmpu (Comparison BitVec.ult) ∧
    ReadsRNN 0xB2 .cmpi (fun n => n.signExtend 32) (Comparison BitVec.slt) ∧
    ReadsRNN 0xB3 .cmpiu (fun n => n.setWidth 32) (Comparison BitVec.ult)

/-- The six conditional branches skip N instructions, forward or backward, where their condition holds of the signed CMP,
and do nothing else (R301 to R306). -/
def Obligations.ConditionalBranches : Prop :=
  Branches 0xD0 .be (fun c => c = 0) ∧ Branches 0xD1 .bne (fun c => c ≠ 0) ∧ Branches 0xD2 .bl (fun c => c < 0) ∧
    Branches 0xD3 .ble (fun c => c ≤ 0) ∧ Branches 0xD4 .bg (fun c => c > 0) ∧ Branches 0xD5 .bge (fun c => c ≥ 0)

/-- JMP and JMPR skip as many instructions as N or X says, GO continues at an absolute byte address; no other register
and nothing else changes (46_branch.md, decisions D12, D18, D19 and D20). -/
def Obligations.UnconditionalJumps : Prop :=
  (∀ n : BitVec 24, decode (0xD8#8 ++ n) = .ok (.jmp n) ∧ decode (0xDF#8 ++ n) = .ok (.go n)) ∧
    (∀ (x : RegNumber) (unused : BitVec 16), decode (0xD9#8 ++ x ++ unused) = .ok (.jmpr x) ∧
      RefusesBadRegister (.jmpr x) [x]) ∧
    ∀ s : State,
      (∀ n : BitVec 24, Completes (exec (.jmp n) s) fun t => s.OnlyRegisters t [.pc] ∧
        t.pc = s.pc + 4 * (if s.params.jmpSigned then n.signExtend 32 else n.setWidth 32)) ∧
      (∀ X : Reg, Completes (exec (.jmpr X.number) s) fun t => s.OnlyRegisters t [.pc] ∧
        t.pc = s.pc + 4 * s.operand .x X) ∧
      ∀ n : BitVec 24, Completes (exec (.go n) s) fun t => s.OnlyRegisters t [.pc] ∧ t.pc = n.setWidth 32

/-! ## A fetch from beyond the memory -/

/-- The fetch is a read of four bytes at PC wherever PC lies, and the bus being off does not stop it (R76, R31). Where PC
is negative it fetches the bytes of the bus table, in the direction that `NEG_ACCESS` names; where the four bytes lie in
a device port it asks that device once, whose answer is any value. The word is then executed like any other
(20_memory.md sections 3 to 5, 10_state.md section 6, decisions D3, D4, D7, D11, D25, D34 and D35). -/
def Obligations.FetchesBeyondMemory : Prop :=
  ∀ s : State, s.Sound → s.power = .running →
    (∀ byteAt : Nat → Byte, s.pc.toInt < 0 → s.TableBytes (-s.pc.toInt).toNat .word byteAt →
      ∃ u, s.Fetched (wordFrom byteAt) [] u ∧ s.Executes (wordFrom byteAt) u) ∧
    ∀ p : Port, p ∈ s.busPorts → p.type ≠ memoryType → p.start ≤ s.pc.toNat → s.pc.toNat + 4 ≤ p.start + p.length →
      ∃ w u, s.Fetched w [.read p.type (s.pc.toNat - p.start) .word w] u ∧ s.Executes w u
end

