-- ==== Sys2Proof/Laws/Decode.lean ====
section
/-! SUPPORT. The machine names of the registers, the fields of a word built in each of the seven formats, and what the
decoder can answer (10_state.md R46; 30_encoding.md R101 to R118). -/

namespace Sys2Proof

/-! ## Register numbers -/

@[simp] theorem Reg.ofNumber_number (r : Reg) : Reg.ofNumber r.number = some r := by
  cases r with
  | gpr i => revert i; decide
  | _ => rfl

/-- A number that names a register is that register's machine name. -/
theorem Reg.number_of_ofNumber {n : RegNumber} {r : Reg} (h : Reg.ofNumber n = some r) : r.number = n := by
  have all : ∀ k : Fin 256, ((Reg.ofNumber (BitVec.ofFin k)).all (fun r => r.number == BitVec.ofFin k)) = true := by
    decide +kernel
  have hk := all n.toFin
  rw [show BitVec.ofFin n.toFin = n from rfl, h] at hk
  simpa using hk

/-- The numbers that name a register are those that `RegNumber.valid` admits (R46). -/
theorem Reg.isSome_ofNumber (n : RegNumber) : (Reg.ofNumber n).isSome = RegNumber.valid n := by
  have all : ∀ k : Fin 256,
      (Reg.ofNumber (BitVec.ofFin k)).isSome = RegNumber.valid (BitVec.ofFin k) := by decide +kernel
  exact all n.toFin

/-- A valid number names a register. -/
theorem Reg.exists_of_valid {n : RegNumber} (h : RegNumber.valid n = true) : ∃ r, Reg.ofNumber n = some r :=
  Option.isSome_iff_exists.mp ((Reg.isSome_ofNumber n).trans h)

/-- The machine name of a register is a valid number. -/
@[simp] theorem Reg.valid_number (r : Reg) : RegNumber.valid r.number = true := by
  rw [← Reg.isSome_ofNumber, Reg.ofNumber_number]; rfl

/-! ## The fields of a word -/

section
variable (op x y z : Byte) (n16 : BitVec 16) (n24 : BitVec 24)

/-- The fields of a word whose opcode is followed by 24 bits. -/
theorem opcodeOf_append24 : opcodeOf (op ++ n24) = op := by
  change BitVec.extractLsb' 24 8 (op ++ n24 : BitVec (8 + 24)) = op
  apply BitVec.eq_of_getLsbD_eq; intro i hi
  have : ¬ (24 + i < 24) := by omega
  simp only [BitVec.getLsbD_extractLsb', BitVec.getLsbD_append]
  simp [*]

theorem n24_append24 : (fieldsOf (op ++ n24)).n24 = n24 := by
  change BitVec.extractLsb' 0 24 (op ++ n24 : BitVec (8 + 24)) = n24
  apply BitVec.eq_of_getLsbD_eq; intro i hi
  simp only [BitVec.getLsbD_extractLsb', BitVec.getLsbD_append]
  simp [*]

/-- The fields of a word of four bytes. -/
theorem opcodeOf_bytes : opcodeOf (op ++ x ++ y ++ z) = op := by
  change BitVec.extractLsb' 24 8 (op ++ x ++ y ++ z : BitVec (8 + 8 + 8 + 8)) = op
  apply BitVec.eq_of_getLsbD_eq; intro i hi
  have h1 : ¬ (24 + i < 8) := by omega
  have h2 : ¬ (24 + i - 8 < 8) := by omega
  have h3 : ¬ (24 + i - 8 - 8 < 8) := by omega
  have h4 : 24 + i - 8 - 8 - 8 = i := by omega
  simp only [BitVec.getLsbD_extractLsb', BitVec.getLsbD_append]
  simp [*]

theorem x_bytes : (fieldsOf (op ++ x ++ y ++ z)).x = x := by
  change BitVec.extractLsb' 16 8 (op ++ x ++ y ++ z : BitVec (8 + 8 + 8 + 8)) = x
  apply BitVec.eq_of_getLsbD_eq; intro i hi
  have h1 : ¬ (16 + i < 8) := by omega
  have h2 : ¬ (16 + i - 8 < 8) := by omega
  have h3 : 16 + i - 8 - 8 = i := by omega
  simp only [BitVec.getLsbD_extractLsb', BitVec.getLsbD_append]
  simp [*]

theorem y_bytes : (fieldsOf (op ++ x ++ y ++ z)).y = y := by
  change BitVec.extractLsb' 8 8 (op ++ x ++ y ++ z : BitVec (8 + 8 + 8 + 8)) = y
  apply BitVec.eq_of_getLsbD_eq; intro i hi
  have h1 : ¬ (8 + i < 8) := by omega
  have h2 : 8 + i - 8 = i := by omega
  simp only [BitVec.getLsbD_extractLsb', BitVec.getLsbD_append]
  simp [*]

theorem z_bytes : (fieldsOf (op ++ x ++ y ++ z)).z = z := by
  change BitVec.extractLsb' 0 8 (op ++ x ++ y ++ z : BitVec (8 + 8 + 8 + 8)) = z
  apply BitVec.eq_of_getLsbD_eq; intro i hi
  simp only [BitVec.getLsbD_extractLsb', BitVec.getLsbD_append]
  simp [*]

/-- The fields of a word of two bytes and a 16-bit number. -/
theorem opcodeOf_append16 : opcodeOf (op ++ x ++ n16) = op := by
  change BitVec.extractLsb' 24 8 (op ++ x ++ n16 : BitVec (8 + 8 + 16)) = op
  apply BitVec.eq_of_getLsbD_eq; intro i hi
  have h1 : ¬ (24 + i < 16) := by omega
  have h2 : ¬ (24 + i - 16 < 8) := by omega
  have h3 : 24 + i - 16 - 8 = i := by omega
  simp only [BitVec.getLsbD_extractLsb', BitVec.getLsbD_append]
  simp [*]

theorem x_append16 : (fieldsOf (op ++ x ++ n16)).x = x := by
  change BitVec.extractLsb' 16 8 (op ++ x ++ n16 : BitVec (8 + 8 + 16)) = x
  apply BitVec.eq_of_getLsbD_eq; intro i hi
  have h1 : ¬ (16 + i < 16) := by omega
  have h2 : 16 + i - 16 = i := by omega
  simp only [BitVec.getLsbD_extractLsb', BitVec.getLsbD_append]
  simp [*]

theorem n16_append16 : (fieldsOf (op ++ x ++ n16)).n16 = n16 := by
  change BitVec.extractLsb' 0 16 (op ++ x ++ n16 : BitVec (8 + 8 + 16)) = n16
  apply BitVec.eq_of_getLsbD_eq; intro i hi
  simp only [BitVec.getLsbD_extractLsb', BitVec.getLsbD_append]
  simp [*]

/-- The bytes of a word, put together again, are the word (R101). -/
theorem wordOfBytes_bytesOfWord (w : Word) :
    wordOfBytes (w.extractLsb' 24 8) (w.extractLsb' 16 8) (w.extractLsb' 8 8) (w.extractLsb' 0 8) = w := by
  apply BitVec.eq_of_getLsbD_eq; intro i hi
  simp only [wordOfBytes, BitVec.getLsbD_append, BitVec.getLsbD_extractLsb']
  split
  · next h => simp [h]
  · split
    · next h1 h2 => simp [h2, show 8 + (i - 8) = i by omega]
    · split
      · next h1 h2 h3 => simp [h3, show 16 + (i - 8 - 8) = i by omega]
      · next h1 h2 h3 => simp [show i - 8 - 8 - 8 < 8 by omega, show 24 + (i - 8 - 8 - 8) = i by omega]

end

/-! ## The decoder -/

/-- The opcodes of the map are pairwise different (R113): no two rows compete for a word. -/
theorem opcodeRows_nodup : (opcodeRows.map Prod.fst).Nodup := by decide

/-- The map has 109 rows (R113). -/
theorem opcodeRows_length : opcodeRows.length = 109 := by decide

/-- A word decodes by the row that has its opcode. -/
theorem decode_of_opcode {w : Word} {op : Byte} {make : Fields → Instr} (hop : opcodeOf w = op)
    (hrow : opcodeRows.find? (fun row => row.1 == op) = some (op, make)) : decode w = .ok (make (fieldsOf w)) := by
  rw [decode, hop, hrow]

section
variable {op x y z : Byte} {n16 : BitVec 16} {n24 : BitVec 24} {make : Fields → Instr} {i : Instr}

/-- A word of four bytes decodes by the row of its first byte: formats R00, RR0, RRN, RRR. -/
theorem decode_bytes (hrow : opcodeRows.find? (fun row => row.1 == op) = some (op, make))
    (hmake : ∀ n n', make ⟨x, y, z, n, n'⟩ = i) : decode (wordOfBytes op x y z) = .ok i := by
  unfold wordOfBytes
  rw [decode_of_opcode (opcodeOf_bytes op x y z) hrow]
  have hx := x_bytes op x y z
  have hy := y_bytes op x y z
  have hz := z_bytes op x y z
  generalize fieldsOf (op ++ x ++ y ++ z) = f at *
  obtain ⟨_, _, _, n, n'⟩ := f
  subst hx hy hz
  rw [hmake n n']

/-- Format RNN, and format R00 with its two unused bytes as one number. -/
theorem decode_append16 (hrow : opcodeRows.find? (fun row => row.1 == op) = some (op, make))
    (hmake : ∀ b b' n', make ⟨x, b, b', n16, n'⟩ = i) : decode (op ++ x ++ n16) = .ok i := by
  rw [decode_of_opcode (opcodeOf_append16 op x n16) hrow]
  have hx := x_append16 op x n16
  have hn := n16_append16 op x n16
  generalize fieldsOf (op ++ x ++ n16) = f at *
  obtain ⟨_, b, b', _, n'⟩ := f
  subst hx hn
  rw [hmake b b' n']

/-- Format NNN, and format 000 with its three unused bytes as one number. -/
theorem decode_append24 (hrow : opcodeRows.find? (fun row => row.1 == op) = some (op, make))
    (hmake : ∀ b b' b'' n, make ⟨b, b', b'', n, n24⟩ = i) : decode (op ++ n24) = .ok i := by
  rw [decode_of_opcode (opcodeOf_append24 op n24) hrow]
  have hn := n24_append24 op n24
  generalize fieldsOf (op ++ n24) = f at *
  obtain ⟨b, b', b'', n, _⟩ := f
  subst hn
  rw [hmake b b' b'' n]

end

/-- Everything the decoder can answer: the instruction of the one row that has the word's opcode, or the rejection of
an opcode that no row has. -/
theorem decode_cases (w : Word) :
    (∃ row ∈ opcodeRows, row.1 = opcodeOf w ∧ decode w = .ok (row.2 (fieldsOf w))) ∨
      ((∀ row ∈ opcodeRows, row.1 ≠ opcodeOf w) ∧ decode w = .error .illegalOpcode) := by
  unfold decode
  cases h : opcodeRows.find? (fun row => row.1 == opcodeOf w) with
  | some row =>
    exact .inl ⟨row, List.mem_of_find?_eq_some h, by simpa using List.find?_some h, rfl⟩
  | none =>
    exact .inr ⟨by simpa using h, rfl⟩

end Sys2Proof
end

