-- ==== Sys2Proof/Laws/Memory.lean ====
section
/-! SUPPORT. The memory: every operation keeps the canonical form, a read after a write gives the byte written, and a
write leaves every other byte alone (20_memory.md R75). -/

namespace Sys2Proof.Machine

namespace Memory

variable {m : Memory} {a b low bound : Nat} {v : Byte}

/-! ## The canonical form -/

theorem wfFrom_mono (h : low ≤ b) : ∀ {m : Memory}, wfFrom b m = true → wfFrom low m = true
  | [], _ => rfl
  | (k, c) :: m, hw => by
    simp only [wfFrom, Bool.and_eq_true, decide_eq_true_eq] at hw ⊢
    exact ⟨⟨by omega, hw.1.2⟩, hw.2⟩

theorem wfFrom_cons (ha : low ≤ a) (hw : wfFrom (a + 1) m = true) : wfFrom low (cons a v m) = true := by
  unfold cons
  split
  · exact wfFrom_mono (by omega) hw
  · next hv => simp [wfFrom, ha, hv, hw]

theorem wfFrom_write (ha : low ≤ a) (hw : wfFrom low m = true) : wfFrom low (write m a v) = true := by
  induction m generalizing low with
  | nil => exact wfFrom_cons ha rfl
  | cons cell m ih =>
    obtain ⟨k, c⟩ := cell
    simp only [wfFrom, Bool.and_eq_true, decide_eq_true_eq] at hw
    unfold write
    split
    · next hk => exact wfFrom_cons ha (by simp [wfFrom, hw.1.2, hw.2]; omega)
    · split
      · next hk => exact wfFrom_cons ha (hk ▸ hw.2)
      · next h1 h2 => simp [wfFrom, hw.1, ih (by omega) hw.2]

/-- A write keeps the canonical form. -/
theorem wf_write (hw : wf m = true) (a : Nat) (v : Byte) : wf (write m a v) = true :=
  wfFrom_write (Nat.zero_le a) hw

/-- Storing a list of bytes keeps the canonical form. -/
theorem wf_store (bs : List Byte) : ∀ {m : Memory} (_ : wf m = true) (a : Nat), wf (store m a bs) = true := by
  induction bs with
  | nil => exact fun hw _ => hw
  | cons b bs ih => exact fun hw a => ih (wf_write hw a b) (a + 1)

/-! ## The addresses that are listed -/

theorem below_cons (ha : a < bound) (hm : below bound m = true) : below bound (cons a v m) = true := by
  unfold cons
  split
  · exact hm
  · simpa [below, ha] using hm

theorem below_write (ha : a < bound) (hm : below bound m = true) : below bound (write m a v) = true := by
  induction m with
  | nil => exact below_cons ha rfl
  | cons cell m ih =>
    obtain ⟨k, c⟩ := cell
    have hm' : k < bound ∧ below bound m = true := by simpa [below] using hm
    unfold write
    split
    · exact below_cons ha hm
    · split
      · exact below_cons ha hm'.2
      · simpa [below, hm'.1] using ih hm'.2

/-- Storing bytes that all lie below a bound keeps the memory below it. -/
theorem below_store (bs : List Byte) : ∀ {m : Memory} {a : Nat} (_ : a + bs.length ≤ bound)
    (_ : below bound m = true), below bound (store m a bs) = true := by
  induction bs with
  | nil => exact fun _ hm => hm
  | cons b bs ih =>
    intro m a ha hm
    simp only [List.length_cons] at ha
    exact ih (by omega) (below_write (by omega) hm)

/-! ## Reading -/

theorem read_cons_self (hw : wfFrom (a + 1) m = true) : read (cons a v m) a = v := by
  have hread : ∀ {m : Memory} {low : Nat}, a < low → wfFrom low m = true → read m a = unwrittenByte := by
    intro m
    induction m with
    | nil => exact fun _ _ => rfl
    | cons cell m ih =>
      obtain ⟨k, c⟩ := cell
      intro low hl hm
      simp only [wfFrom, Bool.and_eq_true, decide_eq_true_eq] at hm
      rw [read, if_neg (by omega)]
      exact ih (by omega) hm.2
  unfold cons
  split
  · next hv => rw [hv]; exact hread (Nat.lt_succ_self a) hw
  · simp [read]

theorem read_cons_ne (h : b ≠ a) : read (cons a v m) b = read m b := by
  unfold cons
  split
  · rfl
  · simp [read, h]

theorem read_write_self_from (ha : low ≤ a) (hw : wfFrom low m = true) : read (write m a v) a = v := by
  induction m generalizing low with
  | nil => exact read_cons_self rfl
  | cons cell m ih =>
    obtain ⟨k, c⟩ := cell
    simp only [wfFrom, Bool.and_eq_true, decide_eq_true_eq] at hw
    unfold write
    split
    · next hk => exact read_cons_self (by simp [wfFrom, hw.1.2, hw.2]; omega)
    · split
      · next hk => exact read_cons_self (hk ▸ hw.2)
      · next h1 h2 => rw [read, if_neg h2]; exact ih (by omega) hw.2

/-- The byte written is the byte read. -/
theorem read_write_self (hw : wf m = true) (a : Nat) (v : Byte) : read (write m a v) a = v :=
  read_write_self_from (Nat.zero_le a) hw

/-- Every other byte reads as before. -/
theorem read_write_ne (h : b ≠ a) : read (write m a v) b = read m b := by
  induction m with
  | nil => exact read_cons_ne h
  | cons cell m ih =>
    obtain ⟨k, c⟩ := cell
    unfold write
    split
    · exact read_cons_ne h
    · split
      · next hk => rw [read_cons_ne h, read, if_neg (by omega)]
      · simp only [read, ih]

/-- Outside the bytes stored every byte reads as before. -/
theorem read_store_outside (bs : List Byte) : ∀ {m : Memory} {a b : Nat} (_ : b < a ∨ a + bs.length ≤ b),
    read (store m a bs) b = read m b := by
  induction bs with
  | nil => intros; rfl
  | cons c bs ih =>
    intro m a b h
    simp only [List.length_cons] at h
    rw [store, ih (by omega), read_write_ne (by omega)]

/-- Byte j of the bytes stored is read at offset j. -/
theorem read_store_inside (bs : List Byte) : ∀ {m : Memory} (_ : wf m = true) (a : Nat) {j : Nat}
    (h : j < bs.length), read (store m a bs) (a + j) = bs[j] := by
  induction bs with
  | nil => intro _ _ _ j h; simp at h
  | cons c bs ih =>
    intro m hw a j h
    cases j with
    | zero => rw [store, read_store_outside bs (by omega), Nat.add_zero]; simpa using read_write_self hw a c
    | succ j =>
      rw [store, show a + (j + 1) = a + 1 + j by omega, ih (wf_write hw a c)]
      rfl

/-! ## The bytes of a port -/

/-- The bytes of a port are in canonical form, whatever list they are taken from. -/
theorem wf_clip (size : Nat) : ∀ m : Memory, wf (clip size m) = true
  | [] => rfl
  | (k, b) :: m => by
    unfold clip
    split
    · exact wf_write (wf_clip size m) k b
    · exact wf_clip size m

/-- The bytes of a port lie within it. -/
theorem below_clip (size : Nat) : ∀ m : Memory, below size (clip size m) = true
  | [] => rfl
  | (k, b) :: m => by
    unfold clip
    split
    · next h => exact below_write h (below_clip size m)
    · exact below_clip size m

/-- The bytes of a port read as in the list they are taken from, and nothing is listed beyond it. -/
theorem read_clip (size a : Nat) : ∀ m : Memory,
    read (clip size m) a = if a < size then read m a else unwrittenByte
  | [] => by simp [clip, read]
  | (k, b) :: m => by
    unfold clip
    by_cases hk : a = k
    · subst hk
      split
      · next h => rw [read_write_self (wf_clip size m)]; simp [read]
      · next h => rw [read_clip size a m, if_neg h]
    · split
      · rw [read_write_ne hk, read_clip size a m, read, if_neg hk]
      · rw [read_clip size a m, read, if_neg hk]

end Memory

end Sys2Proof.Machine
end

