-- ==== Sys2Proof/Laws/State.lean ====
section
/-! SUPPORT. The fields of a state after each named update (true by rfl, but for `setReg`, whose register is split
first), and what the registers hold after a register write. -/

namespace Sys2Proof.Machine

variable (s : State)

/-! ## Register writes -/

@[simp] theorem State.setReg_power (r : Reg) (v : Word) : (s.setReg r v).power = s.power := by cases r <;> rfl
@[simp] theorem State.setReg_runmode (r : Reg) (v : Word) : (s.setReg r v).runmode = s.runmode := by cases r <;> rfl
@[simp] theorem State.setReg_busOn (r : Reg) (v : Word) : (s.setReg r v).busOn = s.busOn := by cases r <;> rfl
@[simp] theorem State.setReg_protectOn (r : Reg) (v : Word) : (s.setReg r v).protectOn = s.protectOn := by cases r <;> rfl
@[simp] theorem State.setReg_zombie (r : Reg) (v : Word) : (s.setReg r v).zombie = s.zombie := by cases r <;> rfl
@[simp] theorem State.setReg_osOn (r : Reg) (v : Word) : (s.setReg r v).osOn = s.osOn := by cases r <;> rfl
@[simp] theorem State.setReg_sysmode (r : Reg) (v : Word) : (s.setReg r v).sysmode = s.sysmode := by cases r <;> rfl
@[simp] theorem State.setReg_mem (r : Reg) (v : Word) : (s.setReg r v).mem = s.mem := by cases r <;> rfl
@[simp] theorem State.setReg_busPorts (r : Reg) (v : Word) : (s.setReg r v).busPorts = s.busPorts := by cases r <;> rfl
@[simp] theorem State.setReg_deviceTrace (r : Reg) (v : Word) : (s.setReg r v).deviceTrace = s.deviceTrace := by cases r <;> rfl
@[simp] theorem State.setReg_wakeTrace (r : Reg) (v : Word) : (s.setReg r v).wakeTrace = s.wakeTrace := by cases r <;> rfl
@[simp] theorem State.setReg_params (r : Reg) (v : Word) : (s.setReg r v).params = s.params := by cases r <;> rfl
@[simp] theorem State.setReg_tick (r : Reg) (v : Word) : (s.setReg r v).tick = s.tick := by cases r <;> rfl

/-- A write leaves the register that is written with the value, but for ZERO, and no other register changed (R45). -/
theorem State.content_setReg (r q : Reg) (v : Word) :
    (s.setReg r v).content q = if q = r ∧ r ≠ .zero then v else s.content q := by
  cases r <;> cases q <;> simp [State.setReg, State.content, Vector.getElem_set, Fin.ext_iff, eq_comm]

@[simp] theorem State.setReg_zero (v : Word) : s.setReg .zero v = s := rfl

@[simp] theorem State.content_zero : s.content .zero = 0 := rfl

/-- Only a read of STAT is not the register's content (R40). -/
theorem State.operand_of_ne_stat (slot : Slot) {r : Reg} (h : r ≠ .stat) : s.operand slot r = s.content r := by
  simp [State.operand, h]

/-! ## Reporting an error -/

@[simp] theorem State.raise_gpr (e : ErrorCause) (info : Word) : (s.raise e info).gpr = s.gpr := rfl
@[simp] theorem State.raise_pc (e : ErrorCause) (info : Word) : (s.raise e info).pc = s.pc := rfl
@[simp] theorem State.raise_sp (e : ErrorCause) (info : Word) : (s.raise e info).sp = s.sp := rfl
@[simp] theorem State.raise_fp (e : ErrorCause) (info : Word) : (s.raise e info).fp = s.fp := rfl
@[simp] theorem State.raise_lin (e : ErrorCause) (info : Word) : (s.raise e info).lin = s.lin := rfl
@[simp] theorem State.raise_ir (e : ErrorCause) (info : Word) : (s.raise e info).ir = s.ir := rfl
@[simp] theorem State.raise_nin (e : ErrorCause) (info : Word) : (s.raise e info).nin = s.nin := rfl
@[simp] theorem State.raise_stat (e : ErrorCause) (info : Word) : (s.raise e info).stat = s.stat := rfl
@[simp] theorem State.raise_err (e : ErrorCause) (info : Word) : (s.raise e info).err = s.err ||| s.params.errBits.mask e := rfl
@[simp] theorem State.raise_errm (e : ErrorCause) (info : Word) : (s.raise e info).errm = info := rfl
@[simp] theorem State.raise_hi (e : ErrorCause) (info : Word) : (s.raise e info).hi = s.hi := rfl
@[simp] theorem State.raise_lo (e : ErrorCause) (info : Word) : (s.raise e info).lo = s.lo := rfl
@[simp] theorem State.raise_cmp (e : ErrorCause) (info : Word) : (s.raise e info).cmp = s.cmp := rfl
@[simp] theorem State.raise_power (e : ErrorCause) (info : Word) : (s.raise e info).power = if s.params.errHalts then .waiting else s.power := rfl
@[simp] theorem State.raise_runmode (e : ErrorCause) (info : Word) : (s.raise e info).runmode = s.runmode := rfl
@[simp] theorem State.raise_busOn (e : ErrorCause) (info : Word) : (s.raise e info).busOn = s.busOn := rfl
@[simp] theorem State.raise_protectOn (e : ErrorCause) (info : Word) : (s.raise e info).protectOn = s.protectOn := rfl
@[simp] theorem State.raise_zombie (e : ErrorCause) (info : Word) : (s.raise e info).zombie = s.zombie := rfl
@[simp] theorem State.raise_osOn (e : ErrorCause) (info : Word) : (s.raise e info).osOn = s.osOn := rfl
@[simp] theorem State.raise_sysmode (e : ErrorCause) (info : Word) : (s.raise e info).sysmode = s.sysmode := rfl
@[simp] theorem State.raise_mem (e : ErrorCause) (info : Word) : (s.raise e info).mem = s.mem := rfl
@[simp] theorem State.raise_busPorts (e : ErrorCause) (info : Word) : (s.raise e info).busPorts = s.busPorts := rfl
@[simp] theorem State.raise_deviceTrace (e : ErrorCause) (info : Word) : (s.raise e info).deviceTrace = s.deviceTrace := rfl
@[simp] theorem State.raise_wakeTrace (e : ErrorCause) (info : Word) : (s.raise e info).wakeTrace = s.wakeTrace := rfl
@[simp] theorem State.raise_params (e : ErrorCause) (info : Word) : (s.raise e info).params = s.params := rfl
@[simp] theorem State.raise_tick (e : ErrorCause) (info : Word) : (s.raise e info).tick = s.tick := rfl

/-! ## FetchError -/

@[simp] theorem State.fetchError_gpr : (s.fetchError).gpr = s.gpr := rfl
@[simp] theorem State.fetchError_pc : (s.fetchError).pc = s.pc := rfl
@[simp] theorem State.fetchError_sp : (s.fetchError).sp = s.sp := rfl
@[simp] theorem State.fetchError_fp : (s.fetchError).fp = s.fp := rfl
@[simp] theorem State.fetchError_lin : (s.fetchError).lin = s.lin := rfl
@[simp] theorem State.fetchError_ir : (s.fetchError).ir = s.ir := rfl
@[simp] theorem State.fetchError_nin : (s.fetchError).nin = s.nin := rfl
@[simp] theorem State.fetchError_stat : (s.fetchError).stat = s.stat := rfl
@[simp] theorem State.fetchError_err : (s.fetchError).err = s.err ||| s.params.errBits.mask .fetchError := rfl
@[simp] theorem State.fetchError_errm : (s.fetchError).errm = s.pc := rfl
@[simp] theorem State.fetchError_hi : (s.fetchError).hi = s.hi := rfl
@[simp] theorem State.fetchError_lo : (s.fetchError).lo = s.lo := rfl
@[simp] theorem State.fetchError_cmp : (s.fetchError).cmp = s.cmp := rfl
@[simp] theorem State.fetchError_power : (s.fetchError).power = .waiting := rfl
@[simp] theorem State.fetchError_runmode : (s.fetchError).runmode = s.runmode := rfl
@[simp] theorem State.fetchError_busOn : (s.fetchError).busOn = s.busOn := rfl
@[simp] theorem State.fetchError_protectOn : (s.fetchError).protectOn = s.protectOn := rfl
@[simp] theorem State.fetchError_zombie : (s.fetchError).zombie = s.zombie := rfl
@[simp] theorem State.fetchError_osOn : (s.fetchError).osOn = s.osOn := rfl
@[simp] theorem State.fetchError_sysmode : (s.fetchError).sysmode = s.sysmode := rfl
@[simp] theorem State.fetchError_mem : (s.fetchError).mem = s.mem := rfl
@[simp] theorem State.fetchError_busPorts : (s.fetchError).busPorts = s.busPorts := rfl
@[simp] theorem State.fetchError_deviceTrace : (s.fetchError).deviceTrace = s.deviceTrace := rfl
@[simp] theorem State.fetchError_wakeTrace : (s.fetchError).wakeTrace = s.wakeTrace := rfl
@[simp] theorem State.fetchError_params : (s.fetchError).params = s.params := rfl
@[simp] theorem State.fetchError_tick : (s.fetchError).tick = s.tick := rfl

/-! ## FETCH -/

@[simp] theorem State.fetched_gpr (w : Word) : (s.fetched w).gpr = s.gpr := rfl
@[simp] theorem State.fetched_pc (w : Word) : (s.fetched w).pc = advance s.pc := rfl
@[simp] theorem State.fetched_sp (w : Word) : (s.fetched w).sp = s.sp := rfl
@[simp] theorem State.fetched_fp (w : Word) : (s.fetched w).fp = s.fp := rfl
@[simp] theorem State.fetched_lin (w : Word) : (s.fetched w).lin = s.ir := rfl
@[simp] theorem State.fetched_ir (w : Word) : (s.fetched w).ir = w := rfl
@[simp] theorem State.fetched_nin (w : Word) : (s.fetched w).nin = nextInstruction s (advance s.pc) := rfl
@[simp] theorem State.fetched_stat (w : Word) : (s.fetched w).stat = s.stat := rfl
@[simp] theorem State.fetched_err (w : Word) : (s.fetched w).err = s.err := rfl
@[simp] theorem State.fetched_errm (w : Word) : (s.fetched w).errm = s.errm := rfl
@[simp] theorem State.fetched_hi (w : Word) : (s.fetched w).hi = s.hi := rfl
@[simp] theorem State.fetched_lo (w : Word) : (s.fetched w).lo = s.lo := rfl
@[simp] theorem State.fetched_cmp (w : Word) : (s.fetched w).cmp = s.cmp := rfl
@[simp] theorem State.fetched_power (w : Word) : (s.fetched w).power = s.power := rfl
@[simp] theorem State.fetched_runmode (w : Word) : (s.fetched w).runmode = s.runmode := rfl
@[simp] theorem State.fetched_busOn (w : Word) : (s.fetched w).busOn = s.busOn := rfl
@[simp] theorem State.fetched_protectOn (w : Word) : (s.fetched w).protectOn = s.protectOn := rfl
@[simp] theorem State.fetched_zombie (w : Word) : (s.fetched w).zombie = s.zombie := rfl
@[simp] theorem State.fetched_osOn (w : Word) : (s.fetched w).osOn = s.osOn := rfl
@[simp] theorem State.fetched_sysmode (w : Word) : (s.fetched w).sysmode = s.sysmode := rfl
@[simp] theorem State.fetched_mem (w : Word) : (s.fetched w).mem = s.mem := rfl
@[simp] theorem State.fetched_busPorts (w : Word) : (s.fetched w).busPorts = s.busPorts := rfl
@[simp] theorem State.fetched_deviceTrace (w : Word) : (s.fetched w).deviceTrace = s.deviceTrace := rfl
@[simp] theorem State.fetched_wakeTrace (w : Word) : (s.fetched w).wakeTrace = s.wakeTrace := rfl
@[simp] theorem State.fetched_params (w : Word) : (s.fetched w).params = s.params := rfl
@[simp] theorem State.fetched_tick (w : Word) : (s.fetched w).tick = s.tick + 1 := rfl

/-! ## HI and LO -/

@[simp] theorem State.setQuotient_gpr (q r : Int) : (s.setQuotient q r).gpr = s.gpr := rfl
@[simp] theorem State.setQuotient_pc (q r : Int) : (s.setQuotient q r).pc = s.pc := rfl
@[simp] theorem State.setQuotient_sp (q r : Int) : (s.setQuotient q r).sp = s.sp := rfl
@[simp] theorem State.setQuotient_fp (q r : Int) : (s.setQuotient q r).fp = s.fp := rfl
@[simp] theorem State.setQuotient_lin (q r : Int) : (s.setQuotient q r).lin = s.lin := rfl
@[simp] theorem State.setQuotient_ir (q r : Int) : (s.setQuotient q r).ir = s.ir := rfl
@[simp] theorem State.setQuotient_nin (q r : Int) : (s.setQuotient q r).nin = s.nin := rfl
@[simp] theorem State.setQuotient_stat (q r : Int) : (s.setQuotient q r).stat = s.stat := rfl
@[simp] theorem State.setQuotient_err (q r : Int) : (s.setQuotient q r).err = s.err := rfl
@[simp] theorem State.setQuotient_errm (q r : Int) : (s.setQuotient q r).errm = s.errm := rfl
@[simp] theorem State.setQuotient_hi (q r : Int) : (s.setQuotient q r).hi = trunc32 q := rfl
@[simp] theorem State.setQuotient_lo (q r : Int) : (s.setQuotient q r).lo = trunc32 r := rfl
@[simp] theorem State.setQuotient_cmp (q r : Int) : (s.setQuotient q r).cmp = s.cmp := rfl
@[simp] theorem State.setQuotient_power (q r : Int) : (s.setQuotient q r).power = s.power := rfl
@[simp] theorem State.setQuotient_runmode (q r : Int) : (s.setQuotient q r).runmode = s.runmode := rfl
@[simp] theorem State.setQuotient_busOn (q r : Int) : (s.setQuotient q r).busOn = s.busOn := rfl
@[simp] theorem State.setQuotient_protectOn (q r : Int) : (s.setQuotient q r).protectOn = s.protectOn := rfl
@[simp] theorem State.setQuotient_zombie (q r : Int) : (s.setQuotient q r).zombie = s.zombie := rfl
@[simp] theorem State.setQuotient_osOn (q r : Int) : (s.setQuotient q r).osOn = s.osOn := rfl
@[simp] theorem State.setQuotient_sysmode (q r : Int) : (s.setQuotient q r).sysmode = s.sysmode := rfl
@[simp] theorem State.setQuotient_mem (q r : Int) : (s.setQuotient q r).mem = s.mem := rfl
@[simp] theorem State.setQuotient_busPorts (q r : Int) : (s.setQuotient q r).busPorts = s.busPorts := rfl
@[simp] theorem State.setQuotient_deviceTrace (q r : Int) : (s.setQuotient q r).deviceTrace = s.deviceTrace := rfl
@[simp] theorem State.setQuotient_wakeTrace (q r : Int) : (s.setQuotient q r).wakeTrace = s.wakeTrace := rfl
@[simp] theorem State.setQuotient_params (q r : Int) : (s.setQuotient q r).params = s.params := rfl
@[simp] theorem State.setQuotient_tick (q r : Int) : (s.setQuotient q r).tick = s.tick := rfl

/-! ## RST -/

@[simp] theorem State.clearGpr_gpr : (s.clearGpr).gpr = Vector.replicate 32 0 := rfl
@[simp] theorem State.clearGpr_pc : (s.clearGpr).pc = s.pc := rfl
@[simp] theorem State.clearGpr_sp : (s.clearGpr).sp = s.sp := rfl
@[simp] theorem State.clearGpr_fp : (s.clearGpr).fp = s.fp := rfl
@[simp] theorem State.clearGpr_lin : (s.clearGpr).lin = s.lin := rfl
@[simp] theorem State.clearGpr_ir : (s.clearGpr).ir = s.ir := rfl
@[simp] theorem State.clearGpr_nin : (s.clearGpr).nin = s.nin := rfl
@[simp] theorem State.clearGpr_stat : (s.clearGpr).stat = s.stat := rfl
@[simp] theorem State.clearGpr_err : (s.clearGpr).err = s.err := rfl
@[simp] theorem State.clearGpr_errm : (s.clearGpr).errm = s.errm := rfl
@[simp] theorem State.clearGpr_hi : (s.clearGpr).hi = s.hi := rfl
@[simp] theorem State.clearGpr_lo : (s.clearGpr).lo = s.lo := rfl
@[simp] theorem State.clearGpr_cmp : (s.clearGpr).cmp = s.cmp := rfl
@[simp] theorem State.clearGpr_power : (s.clearGpr).power = s.power := rfl
@[simp] theorem State.clearGpr_runmode : (s.clearGpr).runmode = s.runmode := rfl
@[simp] theorem State.clearGpr_busOn : (s.clearGpr).busOn = s.busOn := rfl
@[simp] theorem State.clearGpr_protectOn : (s.clearGpr).protectOn = s.protectOn := rfl
@[simp] theorem State.clearGpr_zombie : (s.clearGpr).zombie = s.zombie := rfl
@[simp] theorem State.clearGpr_osOn : (s.clearGpr).osOn = s.osOn := rfl
@[simp] theorem State.clearGpr_sysmode : (s.clearGpr).sysmode = s.sysmode := rfl
@[simp] theorem State.clearGpr_mem : (s.clearGpr).mem = s.mem := rfl
@[simp] theorem State.clearGpr_busPorts : (s.clearGpr).busPorts = s.busPorts := rfl
@[simp] theorem State.clearGpr_deviceTrace : (s.clearGpr).deviceTrace = s.deviceTrace := rfl
@[simp] theorem State.clearGpr_wakeTrace : (s.clearGpr).wakeTrace = s.wakeTrace := rfl
@[simp] theorem State.clearGpr_params : (s.clearGpr).params = s.params := rfl
@[simp] theorem State.clearGpr_tick : (s.clearGpr).tick = s.tick := rfl

/-! ## RSR -/

@[simp] theorem State.restart_gpr : (s.restart).gpr = Vector.replicate 32 0 := rfl
@[simp] theorem State.restart_pc : (s.restart).pc = 0 := rfl
@[simp] theorem State.restart_sp : (s.restart).sp = BitVec.ofNat 32 s.params.memMax := rfl
@[simp] theorem State.restart_fp : (s.restart).fp = s.params.resetSpecials.fp := rfl
@[simp] theorem State.restart_lin : (s.restart).lin = s.params.resetSpecials.lin := rfl
@[simp] theorem State.restart_ir : (s.restart).ir = s.params.resetSpecials.ir := rfl
@[simp] theorem State.restart_nin : (s.restart).nin = s.params.resetSpecials.nin := rfl
@[simp] theorem State.restart_stat : (s.restart).stat = s.params.resetSpecials.stat := rfl
@[simp] theorem State.restart_err : (s.restart).err = 0 := rfl
@[simp] theorem State.restart_errm : (s.restart).errm = s.params.resetSpecials.errm := rfl
@[simp] theorem State.restart_hi : (s.restart).hi = s.params.resetSpecials.hi := rfl
@[simp] theorem State.restart_lo : (s.restart).lo = s.params.resetSpecials.lo := rfl
@[simp] theorem State.restart_cmp : (s.restart).cmp = s.params.resetSpecials.cmp := rfl
@[simp] theorem State.restart_power : (s.restart).power = .running := rfl
@[simp] theorem State.restart_runmode : (s.restart).runmode = .normal := rfl
@[simp] theorem State.restart_busOn : (s.restart).busOn = true := rfl
@[simp] theorem State.restart_protectOn : (s.restart).protectOn = true := rfl
@[simp] theorem State.restart_zombie : (s.restart).zombie = false := rfl
@[simp] theorem State.restart_osOn : (s.restart).osOn = true := rfl
@[simp] theorem State.restart_sysmode : (s.restart).sysmode = 0 := rfl
@[simp] theorem State.restart_mem : (s.restart).mem = s.mem := rfl
@[simp] theorem State.restart_busPorts : (s.restart).busPorts = s.params.enumeratePorts := rfl
@[simp] theorem State.restart_deviceTrace : (s.restart).deviceTrace = s.deviceTrace := rfl
@[simp] theorem State.restart_wakeTrace : (s.restart).wakeTrace = s.wakeTrace := rfl
@[simp] theorem State.restart_params : (s.restart).params = s.params := rfl
@[simp] theorem State.restart_tick : (s.restart).tick = s.tick := rfl

/-! ## Placing a word -/

@[simp] theorem State.placeWord_gpr (a : Nat) (w : Word) : (s.placeWord a w).gpr = s.gpr := rfl
@[simp] theorem State.placeWord_pc (a : Nat) (w : Word) : (s.placeWord a w).pc = s.pc := rfl
@[simp] theorem State.placeWord_sp (a : Nat) (w : Word) : (s.placeWord a w).sp = s.sp := rfl
@[simp] theorem State.placeWord_fp (a : Nat) (w : Word) : (s.placeWord a w).fp = s.fp := rfl
@[simp] theorem State.placeWord_lin (a : Nat) (w : Word) : (s.placeWord a w).lin = s.lin := rfl
@[simp] theorem State.placeWord_ir (a : Nat) (w : Word) : (s.placeWord a w).ir = s.ir := rfl
@[simp] theorem State.placeWord_nin (a : Nat) (w : Word) : (s.placeWord a w).nin = s.nin := rfl
@[simp] theorem State.placeWord_stat (a : Nat) (w : Word) : (s.placeWord a w).stat = s.stat := rfl
@[simp] theorem State.placeWord_err (a : Nat) (w : Word) : (s.placeWord a w).err = s.err := rfl
@[simp] theorem State.placeWord_errm (a : Nat) (w : Word) : (s.placeWord a w).errm = s.errm := rfl
@[simp] theorem State.placeWord_hi (a : Nat) (w : Word) : (s.placeWord a w).hi = s.hi := rfl
@[simp] theorem State.placeWord_lo (a : Nat) (w : Word) : (s.placeWord a w).lo = s.lo := rfl
@[simp] theorem State.placeWord_cmp (a : Nat) (w : Word) : (s.placeWord a w).cmp = s.cmp := rfl
@[simp] theorem State.placeWord_power (a : Nat) (w : Word) : (s.placeWord a w).power = s.power := rfl
@[simp] theorem State.placeWord_runmode (a : Nat) (w : Word) : (s.placeWord a w).runmode = s.runmode := rfl
@[simp] theorem State.placeWord_busOn (a : Nat) (w : Word) : (s.placeWord a w).busOn = s.busOn := rfl
@[simp] theorem State.placeWord_protectOn (a : Nat) (w : Word) : (s.placeWord a w).protectOn = s.protectOn := rfl
@[simp] theorem State.placeWord_zombie (a : Nat) (w : Word) : (s.placeWord a w).zombie = s.zombie := rfl
@[simp] theorem State.placeWord_osOn (a : Nat) (w : Word) : (s.placeWord a w).osOn = s.osOn := rfl
@[simp] theorem State.placeWord_sysmode (a : Nat) (w : Word) : (s.placeWord a w).sysmode = s.sysmode := rfl
@[simp] theorem State.placeWord_mem (a : Nat) (w : Word) : (s.placeWord a w).mem = Memory.store s.mem a (bytesOfWord w) := rfl
@[simp] theorem State.placeWord_busPorts (a : Nat) (w : Word) : (s.placeWord a w).busPorts = s.busPorts := rfl
@[simp] theorem State.placeWord_deviceTrace (a : Nat) (w : Word) : (s.placeWord a w).deviceTrace = s.deviceTrace := rfl
@[simp] theorem State.placeWord_wakeTrace (a : Nat) (w : Word) : (s.placeWord a w).wakeTrace = s.wakeTrace := rfl
@[simp] theorem State.placeWord_params (a : Nat) (w : Word) : (s.placeWord a w).params = s.params := rfl
@[simp] theorem State.placeWord_tick (a : Nat) (w : Word) : (s.placeWord a w).tick = s.tick := rfl

/-! ## The model's counter, and the state that an operating system gives back -/

@[simp] theorem State.ticked_gpr : s.ticked.gpr = s.gpr := rfl
@[simp] theorem State.ticked_pc : s.ticked.pc = s.pc := rfl
@[simp] theorem State.ticked_sp : s.ticked.sp = s.sp := rfl
@[simp] theorem State.ticked_fp : s.ticked.fp = s.fp := rfl
@[simp] theorem State.ticked_lin : s.ticked.lin = s.lin := rfl
@[simp] theorem State.ticked_ir : s.ticked.ir = s.ir := rfl
@[simp] theorem State.ticked_nin : s.ticked.nin = s.nin := rfl
@[simp] theorem State.ticked_stat : s.ticked.stat = s.stat := rfl
@[simp] theorem State.ticked_err : s.ticked.err = s.err := rfl
@[simp] theorem State.ticked_errm : s.ticked.errm = s.errm := rfl
@[simp] theorem State.ticked_hi : s.ticked.hi = s.hi := rfl
@[simp] theorem State.ticked_lo : s.ticked.lo = s.lo := rfl
@[simp] theorem State.ticked_cmp : s.ticked.cmp = s.cmp := rfl
@[simp] theorem State.ticked_power : s.ticked.power = s.power := rfl
@[simp] theorem State.ticked_runmode : s.ticked.runmode = s.runmode := rfl
@[simp] theorem State.ticked_busOn : s.ticked.busOn = s.busOn := rfl
@[simp] theorem State.ticked_protectOn : s.ticked.protectOn = s.protectOn := rfl
@[simp] theorem State.ticked_zombie : s.ticked.zombie = s.zombie := rfl
@[simp] theorem State.ticked_osOn : s.ticked.osOn = s.osOn := rfl
@[simp] theorem State.ticked_sysmode : s.ticked.sysmode = s.sysmode := rfl
@[simp] theorem State.ticked_mem : s.ticked.mem = s.mem := rfl
@[simp] theorem State.ticked_busPorts : s.ticked.busPorts = s.busPorts := rfl
@[simp] theorem State.ticked_deviceTrace : s.ticked.deviceTrace = s.deviceTrace := rfl
@[simp] theorem State.ticked_wakeTrace : s.ticked.wakeTrace = s.wakeTrace := rfl
@[simp] theorem State.ticked_params : s.ticked.params = s.params := rfl
@[simp] theorem State.ticked_tick : s.ticked.tick = s.tick + 1 := rfl

@[simp] theorem State.handedBack_gpr (u : State) : (s.handedBack u).gpr = u.gpr := rfl
@[simp] theorem State.handedBack_pc (u : State) : (s.handedBack u).pc = u.pc := rfl
@[simp] theorem State.handedBack_sp (u : State) : (s.handedBack u).sp = u.sp := rfl
@[simp] theorem State.handedBack_fp (u : State) : (s.handedBack u).fp = u.fp := rfl
@[simp] theorem State.handedBack_lin (u : State) : (s.handedBack u).lin = u.lin := rfl
@[simp] theorem State.handedBack_ir (u : State) : (s.handedBack u).ir = u.ir := rfl
@[simp] theorem State.handedBack_nin (u : State) : (s.handedBack u).nin = u.nin := rfl
@[simp] theorem State.handedBack_stat (u : State) : (s.handedBack u).stat = u.stat := rfl
@[simp] theorem State.handedBack_err (u : State) : (s.handedBack u).err = u.err := rfl
@[simp] theorem State.handedBack_errm (u : State) : (s.handedBack u).errm = u.errm := rfl
@[simp] theorem State.handedBack_hi (u : State) : (s.handedBack u).hi = u.hi := rfl
@[simp] theorem State.handedBack_lo (u : State) : (s.handedBack u).lo = u.lo := rfl
@[simp] theorem State.handedBack_cmp (u : State) : (s.handedBack u).cmp = u.cmp := rfl
@[simp] theorem State.handedBack_power (u : State) : (s.handedBack u).power = u.power := rfl
@[simp] theorem State.handedBack_runmode (u : State) : (s.handedBack u).runmode = u.runmode := rfl
@[simp] theorem State.handedBack_busOn (u : State) : (s.handedBack u).busOn = u.busOn := rfl
@[simp] theorem State.handedBack_protectOn (u : State) : (s.handedBack u).protectOn = u.protectOn := rfl
@[simp] theorem State.handedBack_zombie (u : State) : (s.handedBack u).zombie = u.zombie := rfl
@[simp] theorem State.handedBack_osOn (u : State) : (s.handedBack u).osOn = u.osOn := rfl
@[simp] theorem State.handedBack_sysmode (u : State) : (s.handedBack u).sysmode = u.sysmode := rfl
@[simp] theorem State.handedBack_mem (u : State) : (s.handedBack u).mem = Memory.clip s.params.memSize u.mem := rfl
@[simp] theorem State.handedBack_busPorts (u : State) : (s.handedBack u).busPorts = s.busPorts := rfl
@[simp] theorem State.handedBack_deviceTrace (u : State) : (s.handedBack u).deviceTrace = s.deviceTrace := rfl
@[simp] theorem State.handedBack_wakeTrace (u : State) : (s.handedBack u).wakeTrace = s.wakeTrace := rfl
@[simp] theorem State.handedBack_params (u : State) : (s.handedBack u).params = s.params := rfl
@[simp] theorem State.handedBack_tick (u : State) : (s.handedBack u).tick = s.tick := rfl

/-- The registers are those that the operating system gives back. -/
@[simp] theorem State.content_handedBack (u : State) (r : Reg) : (s.handedBack u).content r = u.content r := by
  cases r <;> rfl

end Sys2Proof.Machine
end

