-- ==== Sys2Proof/Laws/Ops.lean ====
section
/-! SUPPORT. One lemma per shared operation that says once everything it can do: what it answers where its conditions
hold, and, for `<operation>_next`, every next state it can give. -/

namespace Sys2Proof

theorem Width.bytes_pos (n : Width) : 0 < n.bytes := by cases n <;> decide

theorem Params.memSize_le (p : Params) : p.memSize ≤ 2 ^ 31 := (Nat.min_le_right _ _).trans (Nat.sub_le _ _)

end Sys2Proof

namespace Sys2Proof.Machine

/-! ## Frames -/

theorem State.SameModes.rfl' (s : State) : s.SameModes s := ⟨rfl, rfl, rfl, rfl, rfl, rfl⟩

theorem State.SameFixed.rfl' (s : State) : s.SameFixed s := ⟨rfl, rfl, rfl, rfl⟩

theorem State.SameMachine.rfl' (s : State) : s.SameMachine s := ⟨rfl, .rfl' s, .rfl' s, rfl⟩

theorem State.OnlyRegisters.rfl' (s : State) (changed : List Reg) : s.OnlyRegisters s changed :=
  ⟨fun _ _ => rfl, fun _ => rfl, .rfl' s⟩

/-- A register write changes that register at most. -/
theorem State.onlyRegisters_setReg (s : State) (X : Reg) (v : Word) : s.OnlyRegisters (s.setReg X v) [X] where
  registers r hr := by
    have : r ≠ X := by simpa using hr
    simp [State.content_setReg, this]
  bytes b := by simp
  machine := ⟨by simp, ⟨by simp, by simp, by simp, by simp, by simp, by simp⟩,
    ⟨by simp, by simp, by simp, by simp⟩, by simp⟩

/-- A register that is not write-protected holds what is written to it. -/
theorem State.content_setReg_self (s : State) {X : Reg} (h : X.writeProtected = false) (v : Word) :
    (s.setReg X v).content X = v := by
  cases X <;> simp_all [State.content_setReg, Reg.writeProtected]

/-! ## Errors -/

/-- Which bits `raise` leaves in ERR (R343). -/
theorem State.getLsbD_raise_err (s : State) (e : ErrorCause) (info : Word) (k : Fin 32) :
    (s.raise e info).err.getLsbD k = (s.err.getLsbD k || decide (k = s.params.errBits.bit e)) := by
  simp only [State.raise_err, ErrBits.mask, BitVec.getLsbD_or, BitVec.getLsbD_shiftLeft]
  congr 1
  generalize s.params.errBits.bit e = b
  revert k b
  decide +kernel

/-- The state with an error reported carries its mark and is otherwise the same (R343). -/
theorem State.marked_raise (s : State) (e : ErrorCause) (info : Word) : s.Marked (s.raise e info) e info where
  err := s.getLsbD_raise_err e info
  errm := rfl
  registers r hr := by
    simp only [List.mem_cons, List.not_mem_nil, or_false, not_or] at hr
    cases r <;> first | rfl | exact absurd rfl hr.1 | exact absurd rfl hr.2
  bytes _ := rfl
  power := rfl
  modes := ⟨rfl, rfl, rfl, rfl, rfl, rfl⟩
  fixed := ⟨rfl, rfl, rfl, rfl⟩
  deviceTrace := rfl

/-- An error is reported where it is no protection violation, or where the protection mechanisms are on. -/
theorem signalError_eq {s : State} {e : ErrorCause} (info : Word) (h : e.isProtection = true → s.protectOn = true) :
    signalError s e info = .next (s.raise e info) := by
  unfold signalError
  cases he : e.isProtection <;> simp_all

theorem signalError_reports {s : State} {e : ErrorCause} (info : Word)
    (h : e.isProtection = true → s.protectOn = true) : Reports (signalError s e info) s e info :=
  ⟨_, signalError_eq info h, s.marked_raise e info⟩

/-- A protection violation while the protection mechanisms are off is the model's one fault. -/
theorem signalError_off {s : State} {e : ErrorCause} (info : Word) (he : e.isProtection = true)
    (hp : s.protectOn = false) : signalError s e info = .fault (.protectionOff e) := by
  simp [signalError, he, hp]

theorem signalError_next {s t : State} {e : ErrorCause} {info : Word} (h : signalError s e info = .next t) :
    t = s.raise e info := by
  unfold signalError at h
  split at h
  · cases h
  · cases h; rfl

/-! ## The checks -/

@[simp] theorem withReg_number (s : State) (X : Reg) (k : Reg → Answer State) : withReg s X.number k = k X := by
  simp [withReg]

@[simp] theorem withReg2_number (s : State) (X Y : Reg) (k : Reg → Reg → Answer State) :
    withReg2 s X.number Y.number k = k X Y := by
  simp [withReg2]

@[simp] theorem withReg3_number (s : State) (X Y Z : Reg) (k : Reg → Reg → Reg → Answer State) :
    withReg3 s X.number Y.number Z.number k = k X Y Z := by
  simp [withReg3]

/-- A register field either names a register or is reported. -/
theorem withReg_cases (s : State) (x : RegNumber) (k : Reg → Answer State) :
    (∃ X, Reg.ofNumber x = some X ∧ x = X.number ∧ withReg s x k = k X) ∨
      (RegNumber.valid x = false ∧ withReg s x k = signalError s .badRegister s.ir) := by
  unfold withReg
  cases h : Reg.ofNumber x with
  | some X => exact .inl ⟨X, rfl, (Reg.number_of_ofNumber h).symm, rfl⟩
  | none => exact .inr ⟨by rw [← Reg.isSome_ofNumber, h]; rfl, rfl⟩

theorem withReg_invalid {s : State} {x : RegNumber} (h : RegNumber.valid x = false) (k : Reg → Answer State) :
    withReg s x k = signalError s .badRegister s.ir := by
  rcases withReg_cases s x k with ⟨X, _, rfl, _⟩ | h'
  · simp at h
  · exact h'.2

/-- Any field that names no register is reported, the first one met or a later one. -/
theorem withReg2_invalid {s : State} {x y : RegNumber} (h : RegNumber.valid x = false ∨ RegNumber.valid y = false)
    (k : Reg → Reg → Answer State) : withReg2 s x y k = signalError s .badRegister s.ir := by
  rcases withReg_cases s x (fun X => withReg s y fun Y => k X Y) with ⟨X, _, rfl, hk⟩ | ⟨_, hk⟩
  · rw [withReg2, hk]
    exact withReg_invalid (h.resolve_left (by simp)) _
  · exact hk

theorem withReg3_invalid {s : State} {x y z : RegNumber}
    (h : RegNumber.valid x = false ∨ RegNumber.valid y = false ∨ RegNumber.valid z = false)
    (k : Reg → Reg → Reg → Answer State) : withReg3 s x y z k = signalError s .badRegister s.ir := by
  rcases withReg_cases s x (fun X => withReg s y fun Y => withReg s z fun Z => k X Y Z) with ⟨X, _, rfl, hk⟩ | ⟨_, hk⟩
  · rw [withReg3, hk]
    exact withReg2_invalid (k := fun Y Z => k X Y Z) (h.resolve_left (by simp))
  · exact hk

theorem withReg_next {s t : State} {x : RegNumber} {k : Reg → Answer State} (h : withReg s x k = .next t) :
    (∃ X, x = X.number ∧ k X = .next t) ∨ t = s.raise .badRegister s.ir := by
  rcases withReg_cases s x k with ⟨X, _, hx, hk⟩ | ⟨_, hk⟩
  · exact .inl ⟨X, hx, hk ▸ h⟩
  · exact .inr (signalError_next (hk ▸ h))

@[simp] theorem withBus_on {s : State} (h : s.busOn = true) (k : Answer State) : withBus s k = k := by
  simp [withBus, h]

@[simp] theorem withBus_off {s : State} (h : s.busOn = false) (k : Answer State) : withBus s k = .next s := by
  simp [withBus, h]

theorem withBus_next {s t : State} {k : Answer State} (h : withBus s k = .next t) : k = .next t ∨ t = s := by
  unfold withBus at h
  split at h
  · exact .inl h
  · cases h; exact .inr rfl

theorem withWritable_ok {s : State} {X : Reg} (h : X.writeProtected = false) (k : Answer State) :
    withWritable s X k = k := by
  simp [withWritable, h]

theorem withWritable_protected {s : State} {X : Reg} (h : X.writeProtected = true) (k : Answer State) :
    withWritable s X k = signalError s .writeProtected (zext X.number) := by
  simp [withWritable, h]

theorem withWritable_next {s t : State} {X : Reg} {k : Answer State} (h : withWritable s X k = .next t) :
    (X.writeProtected = false ∧ k = .next t) ∨ t = s.raise .writeProtected (zext X.number) := by
  unfold withWritable at h
  split at h
  · exact .inr (signalError_next h)
  · next hp => exact .inl ⟨by simpa using hp, h⟩

theorem withSpRange_ok {s : State} {X : Reg} {v : Word} (h : X = .sp → v.toNat ≤ s.params.memMax)
    (k : Answer State) : withSpRange s X v k = k := by
  unfold withSpRange
  rw [if_neg]
  rintro ⟨rfl, hv⟩
  exact absurd (h rfl) (by omega)

theorem withSpRange_out {s : State} {v : Word} (h : s.params.memMax < v.toNat) (k : Answer State) :
    withSpRange s .sp v k = signalError s .spRange v := by
  simp [withSpRange, h]

theorem withSpRange_next {s t : State} {X : Reg} {v : Word} {k : Answer State} (h : withSpRange s X v k = .next t) :
    ((X = .sp → v.toNat ≤ s.params.memMax) ∧ k = .next t) ∨ t = s.raise .spRange v := by
  unfold withSpRange at h
  split at h
  · exact .inr (signalError_next h)
  · next hn => exact .inl ⟨fun hx => by by_contra hv; exact hn ⟨hx, by omega⟩, h⟩

/-! ## Operand writes -/

/-- An operand write is what R36 says. -/
theorem writeOperand_spec (s : State) (X : Reg) (v : Word) : OperandWrite (writeOperand s X v) s X v where
  refused h hp := by
    rw [writeOperand, withWritable_protected h]
    exact signalError_reports _ fun _ => hp
  outOfRange h hv hp := by
    subst h
    rw [writeOperand, withWritable_ok rfl, withSpRange_out hv]
    exact signalError_reports _ fun _ => hp
  written h hv := by
    rw [writeOperand, withWritable_ok h, withSpRange_ok hv]
    exact ⟨_, rfl, s.content_setReg_self h v, s.onlyRegisters_setReg X v⟩

theorem writeOperand_next {s t : State} {X : Reg} {v : Word} (h : writeOperand s X v = .next t) :
    (X.writeProtected = false ∧ (X = .sp → v.toNat ≤ s.params.memMax) ∧ t = s.setReg X v) ∨
      t = s.raise .writeProtected (zext X.number) ∨ t = s.raise .spRange v := by
  rcases withWritable_next h with ⟨hx, h⟩ | h
  · rcases withSpRange_next h with ⟨hv, h⟩ | h
    · cases h; exact .inl ⟨hx, hv, rfl⟩
    · exact .inr (.inr h)
  · exact .inr (.inl h)

/-! ## The bus -/

@[simp] theorem length_bytesOf (v : Word) (n : Width) : (bytesOf v n).length = n.bytes := by cases n <;> rfl

/-- The memory is the port of every access within it, on the bus that power-up builds (R66). -/
theorem findPort_memory {s : State} (hb : s.busPorts = s.params.enumeratePorts) {a n : Nat}
    (h : a + n ≤ s.params.memSize) : findPort s.busPorts a n = some ⟨memoryType, 0, s.params.memSize⟩ := by
  simp [findPort, hb, Params.enumeratePorts, h]

/-- The pattern of an address below 2^31 is not negative. -/
theorem signed_nonneg_of_lt {a : Word} (h : a.toNat < 2 ^ 31) : 0 ≤ signed a := by
  unfold signed
  rw [BitVec.toInt_eq_toNat_of_lt (by omega)]
  omega

/-- A read within the memory gives its bytes and changes nothing (R74, R91). -/
theorem memRead_memory {s : State} (hb : s.busPorts = s.params.enumeratePorts) {a : Word} {n : Width}
    (h : a.toNat + n.bytes ≤ s.params.memSize) :
    memRead s a n = some (assemble (fun j => Memory.read s.mem (a.toNat + j)) n, s) := by
  have hn := Width.bytes_pos n
  have hm := s.params.memSize_le
  unfold memRead
  rw [if_pos (signed_nonneg_of_lt (by omega)), if_neg (by omega), findPort_memory hb h]
  simp

/-- A write within the memory stores its bytes (R75). -/
theorem memWrite_memory {s : State} (hb : s.busPorts = s.params.enumeratePorts) {a : Word} {n : Width} (v : Word)
    (h : a.toNat + n.bytes ≤ s.params.memSize) :
    memWrite s a n v = some { s with mem := Memory.store s.mem a.toNat (bytesOf v n) } := by
  have hn := Width.bytes_pos n
  have hm := s.params.memSize_le
  unfold memWrite
  rw [if_neg (by have := signed_nonneg_of_lt (a := a) (by omega); omega), if_neg (by omega), findPort_memory hb h]
  simp

/-- Everything a read can do to the state: nothing, or one entry of the device trace. -/
theorem memRead_next {s t : State} {a v : Word} {n : Width} (h : memRead s a n = some (v, t)) :
    t = s ∨ ∃ p ∈ s.busPorts, p.type ≠ memoryType ∧ p.start ≤ a.toNat ∧ a.toNat + n.bytes ≤ p.start + p.length ∧
      t = { s with deviceTrace := s.deviceTrace ++ [.read p.type (a.toNat - p.start) n v] } := by
  unfold memRead at h
  split at h
  · split at h
    · cases h
    · split at h
      · cases h
      · next p hp =>
        split at h
        · cases h; exact .inl rfl
        · next ht =>
          have hin := List.find?_some hp
          simp only [decide_eq_true_eq] at hin
          cases h
          exact .inr ⟨p, List.mem_of_find?_eq_some hp, ht, hin.1, hin.2, rfl⟩
  · cases htab : tableRead s (-signed a).toNat n with
    | none => rw [htab] at h; cases h
    | some w => rw [htab] at h; cases h; exact .inl rfl

/-- Everything a write can do to the state: the bytes in the memory, or one entry of the device trace. -/
theorem memWrite_next {s t : State} {a v : Word} {n : Width} (h : memWrite s a n v = some t) :
    ∃ p ∈ s.busPorts, p.start ≤ a.toNat ∧ a.toNat + n.bytes ≤ p.start + p.length ∧
      ((p.type = memoryType ∧ t = { s with mem := Memory.store s.mem a.toNat (bytesOf v n) }) ∨
        (p.type ≠ memoryType ∧ t = { s with
          deviceTrace := s.deviceTrace ++ [.write p.type (a.toNat - p.start) n (lowBytes n v)] })) := by
  unfold memWrite at h
  split at h
  · cases h
  · split at h
    · cases h
    · split at h
      · cases h
      · next p hp =>
        have hin := List.find?_some hp
        simp only [decide_eq_true_eq] at hin
        refine ⟨p, List.mem_of_find?_eq_some hp, hin.1, hin.2, ?_⟩
        split at h
        · next ht => cases h; exact .inl ⟨ht, rfl⟩
        · next ht => cases h; exact .inr ⟨ht, rfl⟩

/-! ## Loads, stores and the stack -/

/-- A load with the bus on, whose read is answered, is an operand write of the merged value on the state after the
read. -/
theorem loadInto_next {s t : State} {X : Reg} {ea : Word} {n : Width} (h : loadInto s X ea n = .next t) :
    (∃ v s1, memRead s ea n = some (v, s1) ∧ X.writeProtected = false ∧
        (X = .sp → (mergeLow n (s.operand .x X) v).toNat ≤ s.params.memMax) ∧
        t = s1.setReg X (mergeLow n (s.operand .x X) v)) ∨
      t = s ∨ ∃ e info, t = s.raise e info := by
  rcases withBus_next h with h | h
  · rcases withWritable_next h with ⟨hx, h⟩ | h
    · split at h
      · exact .inr (.inr ⟨_, _, signalError_next h⟩)
      · next v s1 hr =>
        rcases withSpRange_next h with ⟨hv, h⟩ | h
        · cases h; exact .inl ⟨v, s1, hr, hx, hv, rfl⟩
        · exact .inr (.inr ⟨_, _, h⟩)
    · exact .inr (.inr ⟨_, _, h⟩)
  · exact .inr (.inl h)

/-- A load from the memory is an operand write of the merged value (R154). -/
theorem loadInto_memory {s : State} (hb : s.busPorts = s.params.enumeratePorts) (hon : s.busOn = true) (X : Reg)
    {ea : Word} {n : Width} (h : ea.toNat + n.bytes ≤ s.params.memSize) :
    loadInto s X ea n = writeOperand s X
      (mergeLow n (s.operand .x X) (assemble (fun j => Memory.read s.mem (ea.toNat + j)) n)) := by
  simp only [loadInto, withBus_on hon, memRead_memory hb h, writeOperand]

/-- Everything a store can do. -/
theorem storeFrom_next {s t : State} {X : Reg} {ea : Word} {n : Width} (h : storeFrom s X ea n = .next t) :
    memWrite s ea n (s.operand .x X) = some t ∨ t = s ∨ t = s.raise .busError ea := by
  rcases withBus_next h with h | h
  · split at h
    · exact .inr (.inr (signalError_next h))
    · next s1 hw => cases h; exact .inl hw
  · exact .inr (.inl h)

/-- Everything a push can do. -/
theorem pushFrom_next {s t : State} {X : Reg} {n : Width} (h : pushFrom s X n = .next t) :
    ((pushTop s n).toNat ≤ s.params.memMax ∧
        memWrite { s with sp := pushTop s n } (pushTop s n) n
          (State.operand { s with sp := pushTop s n } .x X) = some t) ∨
      t = s ∨ ∃ e info, t = s.raise e info := by
  rcases withBus_next h with h | h
  · rcases withSpRange_next h with ⟨hv, h⟩ | h
    · split at h
      · exact .inr (.inr ⟨_, _, signalError_next h⟩)
      · next s1 hw => cases h; exact .inl ⟨hv rfl, hw⟩
    · exact .inr (.inr ⟨_, _, h⟩)
  · exact .inr (.inl h)

/-- Everything the last part of a pop can do. -/
theorem raiseSp_next {s s1 t : State} {n : Width} (h : raiseSp s s1 n = .next t) :
    ((trunc32 (unsigned s1.sp + n.bytes)).toNat ≤ s.params.memMax ∧
        t = { s1 with sp := trunc32 (unsigned s1.sp + n.bytes) }) ∨
      t = s.raise .spRange (trunc32 (unsigned s1.sp + n.bytes)) := by
  rcases withSpRange_next h with ⟨hv, h⟩ | h
  · cases h; exact .inl ⟨hv rfl, rfl⟩
  · exact .inr h

/-- Everything a pop can do. -/
theorem popInto_next {s t : State} {X : Reg} {n : Width} (h : popInto s X n = .next t) :
    (∃ v s1, memRead s s.sp n = some (v, s1) ∧ X.writeProtected = false ∧
        (X = .sp → (mergeLow n (s.operand .x X) v).toNat ≤ s.params.memMax) ∧
        raiseSp s (s1.setReg X (mergeLow n (s.operand .x X) v)) n = .next t) ∨
      t = s ∨ ∃ e info, t = s.raise e info := by
  rcases withBus_next h with h | h
  · rcases withWritable_next h with ⟨hx, h⟩ | h
    · split at h
      · exact .inr (.inr ⟨_, _, signalError_next h⟩)
      · next v s1 hr =>
        rcases withSpRange_next h with ⟨hv, h⟩ | h
        · exact .inl ⟨v, s1, hr, hx, hv, h⟩
        · exact .inr (.inr ⟨_, _, h⟩)
    · exact .inr (.inr ⟨_, _, h⟩)
  · exact .inr (.inl h)

/-! ## HI, LO, CMP and PC -/

/-- Everything a division into HI and LO can do. -/
theorem writeQuotient_next {s t : State} {b q r : Int} (h : writeQuotient s b q r = .next t) :
    (b ≠ 0 ∧ t = s.setQuotient q r) ∨ (b = 0 ∧ t = s.raise .divideByZero s.ir) := by
  unfold writeQuotient at h
  split at h
  · next hb => exact .inr ⟨hb, signalError_next h⟩
  · next hb => cases h; exact .inl ⟨hb, rfl⟩

/-- Everything DIVD can do. -/
theorem writeDivided_next {s t : State} {X : Reg} {b v : Int} (h : writeDivided s X b v = .next t) :
    (b ≠ 0 ∧ X.writeProtected = false ∧ (X = .sp → (trunc32 v).toNat ≤ s.params.memMax) ∧
        t = s.setReg X (trunc32 v)) ∨
      ∃ e info, t = s.raise e info := by
  rcases withWritable_next h with ⟨hx, h⟩ | h
  · split at h
    · exact .inr ⟨_, _, signalError_next h⟩
    · next hb =>
      rcases withSpRange_next h with ⟨hv, h⟩ | h
      · cases h; exact .inl ⟨hb, hx, hv, rfl⟩
      · exact .inr ⟨_, _, h⟩
  · exact .inr ⟨_, _, h⟩

/-- Everything MOD and MODI can do. -/
theorem writeRemainder_next {s t : State} {X : Reg} {a b : Int} (h : writeRemainder s X a b = .next t) :
    (b ≠ 0 ∧ X.writeProtected = false ∧ (X = .sp → (trunc32 (urem a b)).toNat ≤ s.params.memMax) ∧
        t = (if s.params.modWritesHiLo then s.setQuotient (udiv a b) (urem a b) else s).setReg X
          (trunc32 (urem a b))) ∨
      ∃ e info, t = s.raise e info := by
  rcases withWritable_next h with ⟨hx, h⟩ | h
  · split at h
    · exact .inr ⟨_, _, signalError_next h⟩
    · next hb =>
      rcases withSpRange_next h with ⟨hv, h⟩ | h
      · cases h; exact .inl ⟨hb, hx, hv, rfl⟩
      · exact .inr ⟨_, _, h⟩
  · exact .inr ⟨_, _, h⟩

/-- HI and LO written leave every other register alone. -/
theorem State.onlyRegisters_hiLo (s : State) (h l : Word) :
    s.OnlyRegisters { s with hi := h, lo := l } [.hi, .lo] where
  registers r hr := by
    simp only [List.mem_cons, List.not_mem_nil, or_false, not_or] at hr
    cases r <;> first | rfl | exact absurd rfl hr.1 | exact absurd rfl hr.2
  bytes _ := rfl
  machine := ⟨rfl, ⟨rfl, rfl, rfl, rfl, rfl, rfl⟩, ⟨rfl, rfl, rfl, rfl⟩, rfl⟩

/-- A product is in HI and LO, put together (R43). -/
theorem writeProduct_spec (s : State) (p : BitVec 64) :
    Completes (writeProduct s p) fun t => t.hi ++ t.lo = p ∧ s.OnlyRegisters t [.hi, .lo] := by
  refine ⟨_, rfl, ?_, s.onlyRegisters_hiLo _ _⟩
  apply BitVec.eq_of_getLsbD_eq
  intro i hi
  simp only [BitVec.getLsbD_append, BitVec.getLsbD_extractLsb']
  split
  · next h => simp [h]
  · next h => simp [show i - 32 < 32 by omega, show 32 + (i - 32) = i by omega]

/-- A compare writes CMP and nothing else (R290). -/
theorem writeCmp_spec (s : State) (a b : Int) :
    Completes (writeCmp s a b) fun t => t.cmp = cmp3 a b ∧ s.OnlyRegisters t [.cmp] := by
  refine ⟨_, rfl, rfl, ⟨fun r hr => ?_, fun _ => rfl, ⟨rfl, ⟨rfl, rfl, rfl, rfl, rfl, rfl⟩, ⟨rfl, rfl, rfl, rfl⟩, rfl⟩⟩⟩
  have : r ≠ .cmp := by simpa using hr
  cases r <;> first | rfl | exact absurd rfl this

/-- A jump writes PC where it is taken and nothing else (R300). -/
theorem jumpIf_spec (s : State) (taken : Bool) (offset : Int) :
    Completes (jumpIf s taken offset) fun t =>
      t.pc = (if taken then relativeTarget s.pc offset else s.pc) ∧ s.OnlyRegisters t [.pc] := by
  cases taken
  · exact ⟨s, rfl, rfl, .rfl' s _⟩
  · refine ⟨_, rfl, rfl, ⟨fun r hr => ?_, fun _ => rfl,
      ⟨rfl, ⟨rfl, rfl, rfl, rfl, rfl, rfl⟩, ⟨rfl, rfl, rfl, rfl⟩, rfl⟩⟩⟩
    have : r ≠ .pc := by simpa using hr
    cases r <;> first | rfl | exact absurd rfl this

/-! ## The cycle -/

/-- A running machine fetches and executes, or ends the run (R42, R353). -/
theorem step_running {s : State} (h : s.power = .running) :
    (memFetch s = none ∧ step s = .next s.fetchError) ∨
      ∃ w s1, memFetch s = some (w, s1) ∧ step s = executeWord (s1.fetched w) w := by
  unfold step runCycle
  rw [h]
  cases hf : memFetch s with
  | none => exact .inl ⟨rfl, rfl⟩
  | some q => exact .inr ⟨q.1, q.2, rfl, rfl⟩

/-- Every next state of EXECUTE: nothing has happened, or the decoded instruction has run, or its opcode is reported. -/
theorem executeWord_next {s t : State} {w : Word} (h : executeWord s w = .next t) :
    t = s ∨ (∃ i, decode w = .ok i ∧ exec i s = .next t) ∨
      (decode w = .error .illegalOpcode ∧ t = s.raise .illegalOpcode w) := by
  unfold executeWord at h
  split at h
  · cases h; exact .inl rfl
  · split at h
    · next i hd => exact .inr (.inl ⟨i, hd, h⟩)
    · next e hd =>
      refine .inr (.inr ⟨?_, signalError_next h⟩)
      rcases decode_cases w with ⟨_, _, _, hok⟩ | ⟨_, herr⟩
      · rw [hok] at hd; cases hd
      · exact herr

end Sys2Proof.Machine
end

