-- ==== Sys2Proof/Laws/Operands.lean ====
section
/-! SUPPORT. The exact integer arithmetic of the operand forms in terms of the bit vectors' own operations. -/

namespace Sys2Proof.Machine

/-! ## Addition, subtraction, multiplication -/

theorem trunc32_signed_add (a b : Word) : trunc32 (signed a + signed b) = a + b := by
  simp [trunc32, signed, BitVec.ofInt_add]

theorem trunc32_unsigned_add (a b : Word) : trunc32 (unsigned a + unsigned b) = a + b := by
  simp [trunc32, unsigned, BitVec.ofInt_add]

theorem trunc32_signed_sub (a b : Word) : trunc32 (signed a - signed b) = a - b := by
  simp [trunc32, signed, Int.sub_eq_add_neg, BitVec.ofInt_add, BitVec.ofInt_neg, BitVec.sub_eq_add_neg]

theorem trunc32_unsigned_sub (a b : Word) : trunc32 (unsigned a - unsigned b) = a - b := by
  simp [trunc32, unsigned, Int.sub_eq_add_neg, BitVec.ofInt_add, BitVec.ofInt_neg, BitVec.sub_eq_add_neg]

theorem trunc32_signed_neg (a : Word) : trunc32 (-signed a) = -a := by
  simp [trunc32, signed, BitVec.ofInt_neg]

theorem trunc32_succ (a : Word) : trunc32 (unsigned a + 1) = a + 1 := trunc32_unsigned_add a 1

theorem trunc32_pred (a : Word) : trunc32 (unsigned a - 1) = a - 1 := trunc32_unsigned_sub a 1

theorem trunc32_unsigned_mul (a b : Word) : trunc32 (unsigned a * unsigned b) = a * b := by
  simp [trunc32, unsigned, BitVec.ofInt_mul]

/-- The effective address is the sum of base and offset (R84). -/
theorem effectiveAddress_eq (a b : Word) : effectiveAddress a b = a + b := trunc32_unsigned_add a b

/-- The 64-bit product of two signed words is exact (R218). -/
theorem toInt_trunc64_mul (a b : Word) : (trunc64 (signed a * signed b)).toInt = a.toInt * b.toInt := by
  have ha := BitVec.toInt_lt (x := a)
  have ha' := BitVec.le_toInt a
  have hb := BitVec.toInt_lt (x := b)
  have hb' := BitVec.le_toInt b
  unfold trunc64 signed
  rw [BitVec.toInt_ofInt]
  norm_num at ha ha' hb hb'
  have hle : a.toInt * b.toInt ≤ 2 ^ 62 := by
    nlinarith [mul_nonneg (sub_nonneg.2 ha.le) (neg_le_iff_add_nonneg.1 hb'),
      mul_nonneg (neg_le_iff_add_nonneg.1 ha') (sub_nonneg.2 hb.le)]
  have hge : -2 ^ 62 ≤ a.toInt * b.toInt := by
    nlinarith [mul_nonneg (sub_nonneg.2 ha.le) (sub_nonneg.2 hb.le),
      mul_nonneg (neg_le_iff_add_nonneg.1 ha') (neg_le_iff_add_nonneg.1 hb')]
  apply Int.bmod_eq_of_le <;> omega

/-- The 64-bit product of two unsigned words is exact (R219). -/
theorem toNat_trunc64_mul (a b : Word) : (trunc64 (unsigned a * unsigned b)).toNat = a.toNat * b.toNat := by
  have ha := a.isLt
  have hb := b.isLt
  have hlt : a.toNat * b.toNat < 2 ^ 64 := by nlinarith
  have hcast : unsigned a * unsigned b = ((a.toNat * b.toNat : Nat) : Int) := by simp [unsigned]
  rw [trunc64, hcast, BitVec.ofInt_natCast, BitVec.toNat_ofNat, Nat.mod_eq_of_lt hlt]

/-! ## Division -/

theorem trunc32_tdiv (a b : Word) : trunc32 (tdiv (signed a) (signed b)) = a.sdiv b := by
  apply BitVec.eq_of_toInt_eq
  rw [trunc32, BitVec.toInt_ofInt, BitVec.toInt_sdiv]
  rfl

theorem trunc32_trem (a b : Word) : trunc32 (trem (signed a) (signed b)) = a.srem b := by
  apply BitVec.eq_of_toInt_eq
  rw [trunc32, BitVec.toInt_ofInt, BitVec.toInt_srem]
  unfold trem tdiv signed
  rw [show a.toInt - b.toInt * a.toInt.tdiv b.toInt = a.toInt.tmod b.toInt from by
    have := Int.mul_tdiv_add_tmod a.toInt b.toInt
    omega]
  rw [← BitVec.toInt_srem, ← BitVec.toInt_ofInt, BitVec.ofInt_toInt]

theorem trunc32_udiv (a b : Word) : trunc32 (udiv (unsigned a) (unsigned b)) = a / b := by
  apply BitVec.eq_of_toNat_eq
  rw [trunc32, udiv, unsigned, unsigned, ← Int.natCast_ediv, BitVec.ofInt_natCast, BitVec.toNat_ofNat,
    BitVec.toNat_udiv, Nat.mod_eq_of_lt (lt_of_le_of_lt (Nat.div_le_self _ _) a.isLt)]

theorem trunc32_urem (a b : Word) : trunc32 (urem (unsigned a) (unsigned b)) = a % b := by
  apply BitVec.eq_of_toNat_eq
  have h : urem (unsigned a) (unsigned b) = ((a.toNat % b.toNat : Nat) : Int) := by
    unfold urem udiv unsigned
    have := Int.mul_ediv_add_emod (a.toNat : Int) b.toNat
    push_cast
    omega
  rw [trunc32, h, BitVec.ofInt_natCast, BitVec.toNat_ofNat, BitVec.toNat_umod,
    Nat.mod_eq_of_lt (lt_of_le_of_lt (Nat.mod_le _ _) a.isLt)]

/-! ## One-operand arithmetic -/

/-- The absolute value is the negation of a negative pattern (R231). -/
theorem absolute_eq (v : Word) : absolute v = if v.msb then -v else v := by
  unfold absolute
  rw [trunc32_signed_neg]
  by_cases h : v.msb = true
  · have : ¬ signed v ≥ 0 := by unfold signed; rw [BitVec.msb_eq_toInt] at h; simpa using h
    simp [this, h]
  · have : signed v ≥ 0 := by unfold signed; rw [BitVec.msb_eq_toInt] at h; simpa using h
    simp [this, h]

/-! ## Shifts and rotates -/

theorem shiftLeft_eq (v : Word) (k : Nat) : shiftLeft v k = v <<< k := by
  unfold shiftLeft
  split
  · next h => exact (BitVec.shiftLeft_eq_zero h).symm
  · apply BitVec.eq_of_toNat_eq
    have h : unsigned v * 2 ^ k = ((v.toNat * 2 ^ k : Nat) : Int) := by simp [unsigned]
    rw [trunc32, h, BitVec.ofInt_natCast, BitVec.toNat_ofNat, BitVec.toNat_shiftLeft, Nat.shiftLeft_eq]

theorem shiftRight_eq (v : Word) (k : Nat) : shiftRight v k = v >>> k := by
  unfold shiftRight
  split
  · next h => exact (BitVec.ushiftRight_eq_zero h).symm
  · apply BitVec.eq_of_toNat_eq
    have h : unsigned v / 2 ^ k = ((v.toNat / 2 ^ k : Nat) : Int) := by simp [unsigned]
    rw [trunc32, h, BitVec.ofInt_natCast, BitVec.toNat_ofNat, BitVec.toNat_ushiftRight, Nat.shiftRight_eq_div_pow,
      Nat.mod_eq_of_lt (lt_of_le_of_lt (Nat.div_le_self _ _) v.isLt)]

theorem shiftRightArithmetic_eq (v : Word) (k : Nat) : shiftRightArithmetic v k = v.sshiftRight k := by
  apply BitVec.eq_of_getLsbD_eq
  intro i hi
  have hmin : v.sshiftRight (min k 31) = v.sshiftRight k := by
    by_cases hk : k ≤ 31
    · rw [Nat.min_eq_left hk]
    · rw [Nat.min_eq_right (by omega)]
      apply BitVec.eq_of_getLsbD_eq
      intro j hj
      simp only [BitVec.getLsbD_sshiftRight]
      by_cases h0 : j = 0
      · subst h0; simp [show ¬ k < 32 by omega, BitVec.msb_eq_getLsbD_last]
      · simp [show ¬ (31 + j < 32) by omega, show ¬ (k + j < 32) by omega]
  rw [← hmin]
  congr 1
  apply BitVec.eq_of_toInt_eq
  rw [BitVec.toInt_sshiftRight, shiftRightArithmetic, trunc32, BitVec.toInt_ofInt, signed, Int.shiftRight_eq_div_pow]
  have h1 := BitVec.toInt_lt (x := v)
  have h2 := BitVec.le_toInt v
  set d : Int := 2 ^ min k 31 with hd
  have hpos : 0 < d := by positivity
  have hlo : -2 ^ 31 ≤ v.toInt / d := by
    rw [Int.le_ediv_iff_mul_le hpos]; omega
  have hhi : v.toInt / d < 2 ^ 31 := by
    rw [Int.ediv_lt_iff_lt_mul hpos]; omega
  rw [Int.bmod_eq_of_le (by omega) (by omega)]
  norm_cast

/-- A rotation to the left puts the bits that fall out back in at the right (R268). -/
theorem rotateLeft_eq (v : Word) (k : Nat) : rotateLeft v k = v <<< (k % 32) ||| v >>> (32 - k % 32) := by
  simp [rotateLeft, BitVec.rotateLeft, BitVec.rotateLeftAux]

/-- A rotation to the right puts the bits that fall out back in at the left (R270). -/
theorem rotateRight_eq (v : Word) (k : Nat) : rotateRight v k = v >>> (k % 32) ||| v <<< (32 - k % 32) := by
  simp [rotateRight, BitVec.rotateRight, BitVec.rotateRightAux]

/-! ## Compares and jumps -/

theorem cmp3_signed (a b : Word) : cmp3 (signed a) (signed b) = if a.slt b then 0xFFFFFFFF else if a = b then 0 else 1 := by
  unfold cmp3 signed
  simp [BitVec.slt_iff_toInt_lt, BitVec.toInt_inj]

theorem cmp3_unsigned (a b : Word) :
    cmp3 (unsigned a) (unsigned b) = if a.ult b then 0xFFFFFFFF else if a = b then 0 else 1 := by
  unfold cmp3 unsigned
  simp [BitVec.ult_iff_toNat_lt, BitVec.toNat_inj]

/-- The target of a relative jump counts instructions of four bytes (R300). -/
theorem relativeTarget_signed (pc n : Word) : relativeTarget pc (signed n) = pc + 4 * n := by
  simp [relativeTarget, trunc32, signed, unsigned, BitVec.ofInt_add, BitVec.ofInt_mul]

theorem relativeTarget_unsigned (pc n : Word) : relativeTarget pc (unsigned n) = pc + 4 * n := by
  simp [relativeTarget, trunc32, unsigned, BitVec.ofInt_add, BitVec.ofInt_mul]

/-- PC advances by four bytes (R47). -/
theorem advance_eq (pc : Word) : advance pc = pc + 4 := trunc32_unsigned_add pc 4

/-- A push of n bytes lowers SP by n (R199). -/
theorem pushTop_eq (s : State) (n : Width) : pushTop s n = s.sp - BitVec.ofNat 32 n.bytes := by
  cases n
  · exact trunc32_unsigned_sub s.sp 1
  · exact trunc32_unsigned_sub s.sp 2
  · exact trunc32_unsigned_sub s.sp 4

end Sys2Proof.Machine
end

