-- ==== Sys2Proof/Laws/Access.lean ====
section
/-! SUPPORT. Accesses: the bytes of a loaded or stored word, the one port that serves an access, and what the loads,
stores, pushes and pops are, each as one shared operation (20_memory.md R66, R73 to R75; 30_encoding.md R101). -/

namespace Sys2Proof.Machine

/-! ## Bytes of a word -/

/-- Two words with the same four bytes are the same. -/
theorem word_eq_of_bytes {v w : Word} (h : ∀ j < 4, byteOf v j = byteOf w j) : v = w := by
  apply BitVec.eq_of_getLsbD_eq
  intro i hi
  have := congrArg (fun b => b.getLsbD (i % 8)) (h (i / 8) (by omega))
  simp only [byteOf, BitVec.getLsbD_extractLsb'] at this
  rw [show 8 * (i / 8) + i % 8 = i by omega] at this
  simpa [Nat.mod_lt] using this

/-- `mergeLow` takes the low n bytes of the new value and the others of the old one. -/
theorem byteOf_mergeLow (n : Width) (old v : Word) {j : Nat} (hj : j < 4) :
    byteOf (mergeLow n old v) j = if j < n.bytes then byteOf v j else byteOf old j := by
  apply BitVec.eq_of_getLsbD_eq
  intro i hi
  have : j = 0 ∨ j = 1 ∨ j = 2 ∨ j = 3 := by omega
  cases n <;> rcases this with rfl | rfl | rfl | rfl <;> simp only [mergeLow, byteOf, Width.bytes] <;> norm_num <;>
    simp only [BitVec.getLsbD_append, BitVec.getLsbD_extractLsb'] <;> interval_cases i <;> simp

/-- The first byte is the most significant of the assembled ones. -/
theorem byteOf_assemble (n : Width) (byteAt : Nat → Byte) {j : Nat} (hj : j < n.bytes) :
    byteOf (assemble byteAt n) j = byteAt (n.bytes - 1 - j) := by
  apply BitVec.eq_of_getLsbD_eq
  intro i hi
  cases n <;> simp only [Width.bytes] at hj <;> interval_cases j <;>
    simp only [assemble, byteOf, Width.bytes, zext, wordOfBytes] <;>
    simp only [BitVec.getLsbD_append, BitVec.getLsbD_extractLsb', BitVec.getLsbD_setWidth] <;>
    interval_cases i <;> simp

/-- `Merged` names one word, the one a load computes. -/
theorem merged_iff {old v : Word} {n : Width} {byteAt : Nat → Byte} :
    Merged old n byteAt v ↔ v = mergeLow n old (assemble byteAt n) := by
  have key : ∀ j < 4, byteOf (mergeLow n old (assemble byteAt n)) j =
      if j < n.bytes then byteAt (n.bytes - 1 - j) else byteOf old j := by
    intro j hj
    rw [byteOf_mergeLow n _ _ hj]
    split
    · next hn => exact byteOf_assemble n byteAt hn
    · rfl
  exact ⟨fun h => word_eq_of_bytes fun j hj => (h j hj).trans (key j hj).symm, fun h => h ▸ key⟩

/-- The low n bytes of a value, merged into a word. -/
theorem merged_lowBytes {old v merged : Word} {n : Width} :
    Merged old n (fun j => byteOf v (n.bytes - 1 - j)) merged ↔ merged = mergeLow n old v := by
  have key : ∀ j < 4, byteOf (mergeLow n old v) j =
      if j < n.bytes then byteOf v (n.bytes - 1 - (n.bytes - 1 - j)) else byteOf old j := by
    intro j hj
    rw [byteOf_mergeLow n _ _ hj]
    split
    · next hn => rw [show n.bytes - 1 - (n.bytes - 1 - j) = j by omega]
    · rfl
  exact ⟨fun h => word_eq_of_bytes fun j hj => (h j hj).trans (key j hj).symm, fun h => h ▸ key⟩

/-- Four bytes of memory that hold a word are fetched as that word. -/
theorem wordFrom_of_holds {m : Memory} {a : Nat} {v : Word} (h : Holds m a .word v) :
    wordFrom (fun j => Memory.read m (a + j)) = v := by
  have e0 := h 0 (by decide)
  have e1 := h 1 (by decide)
  have e2 := h 2 (by decide)
  have e3 := h 3 (by decide)
  show wordOfBytes (Memory.read m (a + 0)) (Memory.read m (a + 1)) (Memory.read m (a + 2)) (Memory.read m (a + 3)) = v
  rw [e0, e1, e2, e3]
  exact wordOfBytes_bytesOfWord _

/-- A stored value is held by the memory. -/
theorem holds_store {m : Memory} (hw : Memory.wf m = true) (a : Nat) (n : Width) (v : Word) :
    Holds (Memory.store m a (bytesOf v n)) a n v := by
  intro j hj
  rw [Memory.read_store_inside _ hw a (show j < (bytesOf v n).length by simpa using hj)]
  cases n <;> simp only [Width.bytes] at hj <;> interval_cases j <;> rfl

/-! ## Ports -/

/-- A port of a layout lies behind the layout's start and within its sum of lengths, and has the type of a need. -/
theorem mem_layoutPorts {q : Port} : ∀ (ns : List PortNeed) (a : Nat), q ∈ layoutPorts a ns →
    a ≤ q.start ∧ q.start + q.length ≤ a + (ns.map PortNeed.length).sum ∧ ∃ n ∈ ns, n.type = q.type := by
  intro ns
  induction ns with
  | nil => intro a h; cases h
  | cons n ns ih =>
    intro a h
    rcases List.mem_cons.1 h with rfl | h
    · simp
    · obtain ⟨h1, h2, m, hm, hm'⟩ := ih _ h
      simp only [List.map_cons, List.sum_cons]
      exact ⟨by omega, by omega, m, by simp [hm], hm'⟩

/-- In a layout no other port serves an access that lies in a port's range (R66). -/
theorem findPort_layoutPorts : ∀ (ns : List PortNeed) (a : Nat) (p : Port) (x n : Nat), 0 < n → p ∈ layoutPorts a ns →
    p.start ≤ x → x + n ≤ p.start + p.length → findPort (layoutPorts a ns) x n = some p := by
  intro ns
  induction ns with
  | nil => intro a p x n _ h; cases h
  | cons m ms ih =>
    intro a p x n hn h h1 h2
    rcases List.mem_cons.1 h with rfl | h
    · simp [layoutPorts, findPort]; simp at h1 h2; omega
    · have hl := mem_layoutPorts _ _ h
      rw [layoutPorts, findPort, List.find?_cons_of_neg (by simp; omega)]
      exact ih _ p x n hn h h1 h2

/-- In a sound state an access within a port's range is served by that port, below 2^31. -/
theorem State.Sound.findPort {s : State} (hs : s.Sound) {p : Port} {x n : Nat} (hn : 0 < n) (hp : p ∈ s.busPorts)
    (h1 : p.start ≤ x) (h2 : x + n ≤ p.start + p.length) :
    Machine.findPort s.busPorts x n = some p ∧ x + n ≤ 2 ^ 31 := by
  have e : s.params.enumeratePorts = layoutPorts 0 (⟨memoryType, s.params.memSize⟩ :: s.params.otherPorts) := by
    simp [layoutPorts, Params.enumeratePorts]
  rw [hs.busBuilt, e] at hp ⊢
  refine ⟨findPort_layoutPorts _ _ p x n hn hp h1 h2, ?_⟩
  have hl := (mem_layoutPorts _ _ hp).2.1
  have hv := hs.paramsValid
  simp only [Params.valid, Bool.and_eq_true, decide_eq_true_eq] at hv
  have hv2 := hv.1.1.1.2
  rw [Params.fixedNeed] at hv2
  simp at hl
  omega

/-- No port takes the access if and only if the search finds none. -/
theorem noPort_iff {s : State} {a n : Nat} : s.NoPort a n ↔ findPort s.busPorts a n = none := by
  unfold State.NoPort findPort
  rw [List.find?_eq_none]
  constructor
  · intro h p hp; have := h p hp; simp; omega
  · intro h p hp; have := h p hp; simp at this; omega

/-- Soundness depends on the parameters, the bus's list and the memory only. -/
theorem State.Sound.congr {s t : State} (h : s.Sound) (hp : t.params = s.params) (hb : t.busPorts = s.busPorts)
    (hm : t.mem = s.mem) : t.Sound :=
  ⟨hp ▸ h.paramsValid, by rw [hb, hp]; exact h.busBuilt, hm ▸ h.memCanonical, by rw [hm, hp]; exact h.memWithin⟩

/-! ## The forms -/

theorem LoadForm.exec_eq {w : Word} {i : Instr} {X : Reg} {address : State → Word} {n : Width}
    (h : LoadForm w i X address n) (s : State) : exec i s = loadInto s X (address s) n := by
  cases h <;> simp [exec, execLb, execLbu, execLh, execLhu, execLw, execLwu, execLbi, execLbui, execLhi, execLhui,
    execLwi, execLwui]

theorem StoreForm.exec_eq {w : Word} {i : Instr} {X : Reg} {address : State → Word} {n : Width}
    (h : StoreForm w i X address n) (s : State) : exec i s = storeFrom s X (address s) n := by
  cases h <;> simp [exec, execSb, execSbu, execSh, execShu, execSw, execSwu, execSbi, execSbui, execShi, execShui,
    execSwi, execSwui]

theorem PushForm.exec_eq {w : Word} {i : Instr} {X : Reg} {n : Width} (h : PushForm w i X n) (s : State) :
    exec i s = pushFrom s X n := by
  cases h <;> simp [exec, execPush, execPushb, execPushh]

theorem PopForm.exec_eq {w : Word} {i : Instr} {X : Reg} {n : Width} (h : PopForm w i X n) (s : State) :
    exec i s = popInto s X n := by
  cases h <;> simp [exec, execPop, execPopb, execPoph]

end Sys2Proof.Machine
end

