-- ==== Sys2Proof/Laws/Exec.lean ====
section
/-! SUPPORT. What an instruction can do, said once for all 109: `exec_next` gives, for every next state of `exec`, one
of the effects of `Effect`, so that a rule about the whole machine is a case analysis over these and not over the
instructions. -/

namespace Sys2Proof.Machine

/-- The state after a read on the bus: the same, or one more entry in the device trace (R80, R91). -/
inductive AfterRead (s : State) : State → Prop where
  | quiet : AfterRead s s
  | device (e : DeviceEvent) : AfterRead s { s with deviceTrace := s.deviceTrace ++ [e] }

/-- The state after a write on the bus: bytes within the memory port's range, or one more entry in the device trace
(R75). -/
inductive AfterWrite (s : State) : State → Prop where
  | memory (p : Port) (a : Nat) (bs : List Byte) (hp : p ∈ s.busPorts) (ht : p.type = memoryType)
      (hlow : p.start ≤ a) (hhigh : a + bs.length ≤ p.start + p.length) :
      AfterWrite s { s with mem := Memory.store s.mem a bs }
  | device (e : DeviceEvent) : AfterWrite s { s with deviceTrace := s.deviceTrace ++ [e] }

/-- The effects an instruction can have. -/
inductive Effect (s : State) (i : Instr) : State → Prop where
  | same : Effect s i s
  | raised (e : ErrorCause) (info : Word) : Effect s i (s.raise e info)
  | wrote {s1 : State} (X : Reg) (v : Word) (hr : AfterRead s s1) (hx : X.number ∈ i.destinations)
      (hp : X.writeProtected = false) (hv : X = .sp → v.toNat ≤ s.params.memMax) : Effect s i (s1.setReg X v)
  | moved (X Y : Reg) (v : Word) (hx : X.number ∈ i.destinations) (hy : Y.number ∈ i.destinations)
      (hpx : X.writeProtected = false) (hpy : Y.writeProtected = false)
      (hv : X = .sp → v.toNat ≤ s.params.memMax) : Effect s i ((s.setReg X v).setReg Y 0)
  | popped {s1 : State} (X : Reg) (v w : Word) (hr : AfterRead s s1) (hx : X.number ∈ i.destinations)
      (hp : X.writeProtected = false) (hw : w.toNat ≤ s.params.memMax) : Effect s i { s1.setReg X v with sp := w }
  | stored {t : State} (ho : opcodeOf (encode i) ∈ memoryWriters) (hw : AfterWrite s t) : Effect s i t
  | pushed {t : State} (v : Word) (ho : opcodeOf (encode i) ∈ memoryWriters) (hv : v.toNat ≤ s.params.memMax)
      (hw : AfterWrite { s with sp := v } t) : Effect s i t
  | called {t : State} (n : BitVec 24) (v pc : Word) (hi : i = .call n) (hv : v.toNat ≤ s.params.memMax)
      (hw : AfterWrite { s with sp := v } t) : Effect s i { t with pc := pc }
  | returned {s1 : State} (v pc : Word) (hi : i = .ret) (hr : AfterRead s s1) (hv : v.toNat ≤ s.params.memMax) :
      Effect s i { s1 with pc := pc, sp := v }
  | hiLo (h l : Word) : Effect s i { s with hi := h, lo := l }
  | remainder (X : Reg) (v h l : Word) (hx : X.number ∈ i.destinations) (hp : X.writeProtected = false)
      (hv : X = .sp → v.toNat ≤ s.params.memMax) : Effect s i (State.setReg { s with hi := h, lo := l } X v)
  | compared (v : Word) : Effect s i { s with cmp := v }
  | jumped (v : Word) (ho : opcodeOf (encode i) ∈ pcWriters) : Effect s i { s with pc := v }
  | cleared (hi : i = .rst) : Effect s i s.clearGpr
  | runMode (n : BitVec 24) (r : RunMode) (hi : i = .crm n) : Effect s i { s with runmode := r }
  | systemMode (n : BitVec 24) (hi : i = .csm n) : Effect s i { s with sysmode := n }
  | switchedOff (hi : i = .die) : Effect s i { s with power := .off }
  | restarted (hi : i = .rsr) : Effect s i s.restart
  | bus (b : Bool) (hi : i = .autsm ∨ i = .socl) : Effect s i { s with busOn := b }
  | protection (b : Bool) (hi : i = .hate ∨ i = .trst) : Effect s i { s with protectOn := b }
  | zombie (b : Bool) (hi : i = .zmb ∨ i = .aliv) : Effect s i { s with zombie := b }
  | woken (n : BitVec 24) (hi : i = .wake n) : Effect s i { s with wakeTrace := s.wakeTrace ++ [n] }
  | handedBack (n : BitVec 24) (hi : i = .wake n) (hc : s.CallsEnvironment i) :
      Effect s i (s.handedBack (Config.wakeHandler n s))
  | killed (hi : i = .kill) : Effect s i { s with osOn := false }

/-! ## From the shared operations to effects -/

section
variable {s t : State} {i : Instr} {X : Reg}

theorem afterRead {a v : Word} {n : Width} (h : memRead s a n = some (v, t)) : AfterRead s t := by
  rcases memRead_next h with rfl | ⟨p, _, _, _, _, rfl⟩
  · exact .quiet
  · exact .device _

theorem afterWrite {a v : Word} {n : Width} (h : memWrite s a n v = some t) : AfterWrite s t := by
  obtain ⟨p, hp, hlow, hhigh, ⟨ht, rfl⟩ | ⟨_, rfl⟩⟩ := memWrite_next h
  · exact .memory p _ _ hp ht hlow (by simpa using hhigh)
  · exact .device _

theorem Effect.ofWithReg {x : RegNumber} {k : Reg → Answer State} (h : withReg s x k = .next t)
    (hk : ∀ X : Reg, x = X.number → k X = .next t → Effect s i t) : Effect s i t := by
  rcases withReg_next h with ⟨X, hx, h⟩ | rfl
  · exact hk X hx h
  · exact .raised _ _

theorem Effect.ofWithReg2 {x y : RegNumber} {k : Reg → Reg → Answer State} (h : withReg2 s x y k = .next t)
    (hk : ∀ X Y : Reg, x = X.number → y = Y.number → k X Y = .next t → Effect s i t) : Effect s i t :=
  .ofWithReg h fun X hx h => .ofWithReg h fun Y hy h => hk X Y hx hy h

theorem Effect.ofWithReg3 {x y z : RegNumber} {k : Reg → Reg → Reg → Answer State}
    (h : withReg3 s x y z k = .next t)
    (hk : ∀ X Y Z : Reg, x = X.number → y = Y.number → z = Z.number → k X Y Z = .next t → Effect s i t) :
    Effect s i t :=
  .ofWithReg h fun X hx h => .ofWithReg h fun Y hy h => .ofWithReg h fun Z hz h => hk X Y Z hx hy hz h

theorem Effect.ofWrite {v : Word} (hx : X.number ∈ i.destinations) (h : writeOperand s X v = .next t) :
    Effect s i t := by
  rcases writeOperand_next h with ⟨hp, hv, rfl⟩ | rfl | rfl
  · exact .wrote X v .quiet hx hp hv
  · exact .raised _ _
  · exact .raised _ _

theorem Effect.ofMove {Y : Reg} {v : Word} (hx : X.number ∈ i.destinations) (hy : Y.number ∈ i.destinations)
    (h : (withWritable s X <| withWritable s Y <| withSpRange s X v <|
      .next ((s.setReg X v).setReg Y 0)) = .next t) : Effect s i t := by
  rcases withWritable_next h with ⟨hpx, h⟩ | rfl
  · rcases withWritable_next h with ⟨hpy, h⟩ | rfl
    · rcases withSpRange_next h with ⟨hv, h⟩ | rfl
      · cases h; exact .moved X Y v hx hy hpx hpy hv
      · exact .raised _ _
    · exact .raised _ _
  · exact .raised _ _

theorem Effect.ofLoad {ea : Word} {n : Width} (hx : X.number ∈ i.destinations)
    (h : loadInto s X ea n = .next t) : Effect s i t := by
  rcases loadInto_next h with ⟨v, s1, hr, hp, hv, rfl⟩ | rfl | ⟨e, info, rfl⟩
  · exact .wrote X _ (afterRead hr) hx hp hv
  · exact .same
  · exact .raised _ _

theorem Effect.ofStore {ea : Word} {n : Width} (ho : opcodeOf (encode i) ∈ memoryWriters)
    (h : storeFrom s X ea n = .next t) : Effect s i t := by
  rcases storeFrom_next h with h | rfl | rfl
  · exact .stored ho (afterWrite h)
  · exact .same
  · exact .raised _ _

theorem Effect.ofPush {n : Width} (ho : opcodeOf (encode i) ∈ memoryWriters)
    (h : pushFrom s X n = .next t) : Effect s i t := by
  rcases pushFrom_next h with ⟨hv, h⟩ | rfl | ⟨e, info, rfl⟩
  · exact .pushed _ ho hv (afterWrite h)
  · exact .same
  · exact .raised _ _

theorem Effect.ofPop {n : Width} (hx : X.number ∈ i.destinations) (h : popInto s X n = .next t) : Effect s i t := by
  rcases popInto_next h with ⟨v, s1, hr, hp, _, h⟩ | rfl | ⟨e, info, rfl⟩
  · rcases raiseSp_next h with ⟨hv, rfl⟩ | rfl
    · exact .popped X _ _ (afterRead hr) hx hp hv
    · exact .raised _ _
  · exact .same
  · exact .raised _ _

theorem Effect.ofQuotient {b q r : Int} (h : writeQuotient s b q r = .next t) : Effect s i t := by
  rcases writeQuotient_next h with ⟨_, rfl⟩ | ⟨_, rfl⟩
  · exact .hiLo _ _
  · exact .raised _ _

theorem Effect.ofProduct {p : BitVec 64} (h : writeProduct s p = .next t) : Effect s i t := by
  cases h; exact .hiLo _ _

theorem Effect.ofDivided {b v : Int} (hx : X.number ∈ i.destinations) (h : writeDivided s X b v = .next t) :
    Effect s i t := by
  rcases writeDivided_next h with ⟨_, hp, hv, rfl⟩ | ⟨e, info, rfl⟩
  · exact .wrote X _ .quiet hx hp hv
  · exact .raised _ _

theorem Effect.ofRemainder {a b : Int} (hx : X.number ∈ i.destinations) (h : writeRemainder s X a b = .next t) :
    Effect s i t := by
  rcases writeRemainder_next h with ⟨_, hp, hv, rfl⟩ | ⟨e, info, rfl⟩
  · split
    · exact .remainder X _ _ _ hx hp hv
    · exact .wrote X _ .quiet hx hp hv
  · exact .raised _ _

theorem Effect.ofCmp {a b : Int} (h : writeCmp s a b = .next t) : Effect s i t := by
  cases h; exact .compared _

theorem Effect.ofJump {taken : Bool} {offset : Int} (ho : opcodeOf (encode i) ∈ pcWriters)
    (h : jumpIf s taken offset = .next t) : Effect s i t := by
  cases taken
  · cases h; exact .same
  · cases h; exact .jumped _ ho

theorem Effect.ofCall {n : BitVec 24} (h : execCall n s = .next t) : Effect s (.call n) t := by
  rcases withBus_next h with h | rfl
  · rcases withSpRange_next h with ⟨hv, h⟩ | rfl
    · split at h
      · cases signalError_next h; exact .raised _ _
      · next hw => cases h; exact .called n _ _ rfl (hv rfl) (afterWrite hw)
    · exact .raised _ _
  · exact .same

theorem Effect.ofRet (h : execRet s = .next t) : Effect s .ret t := by
  rcases withBus_next h with h | rfl
  · split at h
    · cases signalError_next h; exact .raised _ _
    · next w s1 hr =>
      rcases raiseSp_next h with ⟨hv, rfl⟩ | rfl
      · exact .returned (s1 := s1) _ w rfl (afterRead hr) hv
      · exact .raised _ _
  · exact .same

theorem Effect.ofCrm {n : BitVec 24} (h : execCrm n s = .next t) : Effect s (.crm n) t := by
  unfold execCrm at h
  split at h
  · cases h; exact .runMode n _ rfl
  · split at h
    · cases h; exact .runMode n _ rfl
    · cases signalError_next h; exact .raised _ _

theorem Effect.ofWake {n : BitVec 24} (h : execWake n s = .next t) : Effect s (.wake n) t := by
  unfold execWake execWakeWith at h
  split at h
  · next hos =>
    cases hw : s.params.wakeHandler with
    | recording => rw [hw] at h; cases h; exact .woken n rfl
    | environment => rw [hw] at h; cases h; exact .handedBack n rfl ⟨⟨n, rfl⟩, hos, hw⟩
  · cases h; exact .same

theorem mem_writers {w : Word} {op : Byte} {ops : List Byte} (ho : opcodeOf w = op) (h : op ∈ ops) :
    opcodeOf w ∈ ops := ho ▸ h

end

/-- Every next state of an instruction is one of the effects. -/
theorem exec_next {i : Instr} {s t : State} (h : exec i s = .next t) : Effect s i t := by
  cases i with
  | nop => cases h; exact .same
  | rst => cases h; exact .cleared rfl
  | crm => exact .ofCrm h
  | csm => cases h; exact .systemMode _ rfl
  | die => cases h; exact .switchedOff rfl
  | rsr => cases h; exact .restarted rfl
  | autsm => cases h; exact .bus _ (.inl rfl)
  | socl => cases h; exact .bus _ (.inr rfl)
  | hate => cases h; exact .protection _ (.inl rfl)
  | trst => cases h; exact .protection _ (.inr rfl)
  | zmb => cases h; exact .zombie _ (.inl rfl)
  | aliv => cases h; exact .zombie _ (.inr rfl)
  | set => exact .ofWithReg h fun X hx h => .ofWrite (by simp [Instr.destinations, hx]) h
  | setu => exact .ofWithReg h fun X hx h => .ofWrite (by simp [Instr.destinations, hx]) h
  | copy => exact .ofWithReg2 h fun X Y hx hy h => .ofWrite (by simp [Instr.destinations, hx]) h
  | move => exact .ofWithReg2 h fun X Y hx hy h => .ofMove (by simp [Instr.destinations, hx]) (by simp [Instr.destinations, hy]) h
  | lb => exact .ofWithReg3 h fun X Y Z hx hy hz h => .ofLoad (by simp [Instr.destinations, hx]) h
  | lbu => exact .ofWithReg3 h fun X Y Z hx hy hz h => .ofLoad (by simp [Instr.destinations, hx]) h
  | lh => exact .ofWithReg3 h fun X Y Z hx hy hz h => .ofLoad (by simp [Instr.destinations, hx]) h
  | lhu => exact .ofWithReg3 h fun X Y Z hx hy hz h => .ofLoad (by simp [Instr.destinations, hx]) h
  | lw => exact .ofWithReg3 h fun X Y Z hx hy hz h => .ofLoad (by simp [Instr.destinations, hx]) h
  | lwu => exact .ofWithReg3 h fun X Y Z hx hy hz h => .ofLoad (by simp [Instr.destinations, hx]) h
  | lbi => exact .ofWithReg2 h fun X Y hx hy h => .ofLoad (by simp [Instr.destinations, hx]) h
  | lbui => exact .ofWithReg2 h fun X Y hx hy h => .ofLoad (by simp [Instr.destinations, hx]) h
  | lhi => exact .ofWithReg2 h fun X Y hx hy h => .ofLoad (by simp [Instr.destinations, hx]) h
  | lhui => exact .ofWithReg2 h fun X Y hx hy h => .ofLoad (by simp [Instr.destinations, hx]) h
  | lwi => exact .ofWithReg2 h fun X Y hx hy h => .ofLoad (by simp [Instr.destinations, hx]) h
  | lwui => exact .ofWithReg2 h fun X Y hx hy h => .ofLoad (by simp [Instr.destinations, hx]) h
  | sb => exact .ofWithReg3 h fun X Y Z hx hy hz h => .ofStore (mem_writers (opcodeOf_bytes ..) (by decide)) h
  | sbu => exact .ofWithReg3 h fun X Y Z hx hy hz h => .ofStore (mem_writers (opcodeOf_bytes ..) (by decide)) h
  | sh => exact .ofWithReg3 h fun X Y Z hx hy hz h => .ofStore (mem_writers (opcodeOf_bytes ..) (by decide)) h
  | shu => exact .ofWithReg3 h fun X Y Z hx hy hz h => .ofStore (mem_writers (opcodeOf_bytes ..) (by decide)) h
  | sw => exact .ofWithReg3 h fun X Y Z hx hy hz h => .ofStore (mem_writers (opcodeOf_bytes ..) (by decide)) h
  | swu => exact .ofWithReg3 h fun X Y Z hx hy hz h => .ofStore (mem_writers (opcodeOf_bytes ..) (by decide)) h
  | sbi => exact .ofWithReg2 h fun X Y hx hy h => .ofStore (mem_writers (opcodeOf_bytes ..) (by decide)) h
  | sbui => exact .ofWithReg2 h fun X Y hx hy h => .ofStore (mem_writers (opcodeOf_bytes ..) (by decide)) h
  | shi => exact .ofWithReg2 h fun X Y hx hy h => .ofStore (mem_writers (opcodeOf_bytes ..) (by decide)) h
  | shui => exact .ofWithReg2 h fun X Y hx hy h => .ofStore (mem_writers (opcodeOf_bytes ..) (by decide)) h
  | swi => exact .ofWithReg2 h fun X Y hx hy h => .ofStore (mem_writers (opcodeOf_bytes ..) (by decide)) h
  | swui => exact .ofWithReg2 h fun X Y hx hy h => .ofStore (mem_writers (opcodeOf_bytes ..) (by decide)) h
  | pushb => exact .ofWithReg h fun X hx h => .ofPush (mem_writers (opcodeOf_append16 ..) (by decide)) h
  | pushh => exact .ofWithReg h fun X hx h => .ofPush (mem_writers (opcodeOf_append16 ..) (by decide)) h
  | push => exact .ofWithReg h fun X hx h => .ofPush (mem_writers (opcodeOf_append16 ..) (by decide)) h
  | popb => exact .ofWithReg h fun X hx h => .ofPop (by simp [Instr.destinations, hx]) h
  | poph => exact .ofWithReg h fun X hx h => .ofPop (by simp [Instr.destinations, hx]) h
  | pop => exact .ofWithReg h fun X hx h => .ofPop (by simp [Instr.destinations, hx]) h
  | add => exact .ofWithReg3 h fun X Y Z hx hy hz h => .ofWrite (by simp [Instr.destinations, hx]) h
  | addu => exact .ofWithReg3 h fun X Y Z hx hy hz h => .ofWrite (by simp [Instr.destinations, hx]) h
  | addi => exact .ofWithReg2 h fun X Y hx hy h => .ofWrite (by simp [Instr.destinations, hx]) h
  | addiu => exact .ofWithReg2 h fun X Y hx hy h => .ofWrite (by simp [Instr.destinations, hx]) h
  | sub => exact .ofWithReg3 h fun X Y Z hx hy hz h => .ofWrite (by simp [Instr.destinations, hx]) h
  | subu => exact .ofWithReg3 h fun X Y Z hx hy hz h => .ofWrite (by simp [Instr.destinations, hx]) h
  | subi => exact .ofWithReg2 h fun X Y hx hy h => .ofWrite (by simp [Instr.destinations, hx]) h
  | subiu => exact .ofWithReg2 h fun X Y hx hy h => .ofWrite (by simp [Instr.destinations, hx]) h
  | mul => exact .ofWithReg2 h fun X Y hx hy h => .ofProduct h
  | mulu => exact .ofWithReg2 h fun X Y hx hy h => .ofProduct h
  | muli => exact .ofWithReg h fun X hx h => .ofProduct h
  | muliu => exact .ofWithReg h fun X hx h => .ofProduct h
  | muld => exact .ofWithReg3 h fun X Y Z hx hy hz h => .ofWrite (by simp [Instr.destinations, hx]) h
  | div => exact .ofWithReg2 h fun X Y hx hy h => .ofQuotient h
  | divu => exact .ofWithReg2 h fun X Y hx hy h => .ofQuotient h
  | divi => exact .ofWithReg h fun X hx h => .ofQuotient h
  | diviu => exact .ofWithReg h fun X hx h => .ofQuotient h
  | divd => exact .ofWithReg3 h fun X Y Z hx hy hz h => .ofDivided (by simp [Instr.destinations, hx]) h
  | mod => exact .ofWithReg3 h fun X Y Z hx hy hz h => .ofRemainder (by simp [Instr.destinations, hx]) h
  | modi => exact .ofWithReg2 h fun X Y hx hy h => .ofRemainder (by simp [Instr.destinations, hx]) h
  | abs => exact .ofWithReg2 h fun X Y hx hy h => .ofWrite (by simp [Instr.destinations, hx]) h
  | neg => exact .ofWithReg2 h fun X Y hx hy h => .ofWrite (by simp [Instr.destinations, hx]) h
  | inc => exact .ofWithReg h fun X hx h => .ofWrite (by simp [Instr.destinations, hx]) h
  | dec => exact .ofWithReg h fun X hx h => .ofWrite (by simp [Instr.destinations, hx]) h
  | and => exact .ofWithReg3 h fun X Y Z hx hy hz h => .ofWrite (by simp [Instr.destinations, hx]) h
  | andi => exact .ofWithReg2 h fun X Y hx hy h => .ofWrite (by simp [Instr.destinations, hx]) h
  | or => exact .ofWithReg3 h fun X Y Z hx hy hz h => .ofWrite (by simp [Instr.destinations, hx]) h
  | ori => exact .ofWithReg2 h fun X Y hx hy h => .ofWrite (by simp [Instr.destinations, hx]) h
  | xor => exact .ofWithReg3 h fun X Y Z hx hy hz h => .ofWrite (by simp [Instr.destinations, hx]) h
  | xori => exact .ofWithReg2 h fun X Y hx hy h => .ofWrite (by simp [Instr.destinations, hx]) h
  | not => exact .ofWithReg2 h fun X Y hx hy h => .ofWrite (by simp [Instr.destinations, hx]) h
  | noti => exact .ofWithReg h fun X hx h => .ofWrite (by simp [Instr.destinations, hx]) h
  | nand => exact .ofWithReg3 h fun X Y Z hx hy hz h => .ofWrite (by simp [Instr.destinations, hx]) h
  | nandi => exact .ofWithReg2 h fun X Y hx hy h => .ofWrite (by simp [Instr.destinations, hx]) h
  | nor => exact .ofWithReg3 h fun X Y Z hx hy hz h => .ofWrite (by simp [Instr.destinations, hx]) h
  | nori => exact .ofWithReg2 h fun X Y hx hy h => .ofWrite (by simp [Instr.destinations, hx]) h
  | shl => exact .ofWithReg3 h fun X Y Z hx hy hz h => .ofWrite (by simp [Instr.destinations, hx]) h
  | shli => exact .ofWithReg2 h fun X Y hx hy h => .ofWrite (by simp [Instr.destinations, hx]) h
  | shr => exact .ofWithReg3 h fun X Y Z hx hy hz h => .ofWrite (by simp [Instr.destinations, hx]) h
  | shri => exact .ofWithReg2 h fun X Y hx hy h => .ofWrite (by simp [Instr.destinations, hx]) h
  | shra => exact .ofWithReg3 h fun X Y Z hx hy hz h => .ofWrite (by simp [Instr.destinations, hx]) h
  | shrai => exact .ofWithReg2 h fun X Y hx hy h => .ofWrite (by simp [Instr.destinations, hx]) h
  | rotl => exact .ofWithReg3 h fun X Y Z hx hy hz h => .ofWrite (by simp [Instr.destinations, hx]) h
  | rotli => exact .ofWithReg2 h fun X Y hx hy h => .ofWrite (by simp [Instr.destinations, hx]) h
  | rotr => exact .ofWithReg3 h fun X Y Z hx hy hz h => .ofWrite (by simp [Instr.destinations, hx]) h
  | rotri => exact .ofWithReg2 h fun X Y hx hy h => .ofWrite (by simp [Instr.destinations, hx]) h
  | cmp => exact .ofWithReg2 h fun X Y hx hy h => .ofCmp h
  | cmpu => exact .ofWithReg2 h fun X Y hx hy h => .ofCmp h
  | cmpi => exact .ofWithReg h fun X hx h => .ofCmp h
  | cmpiu => exact .ofWithReg h fun X hx h => .ofCmp h
  | be => exact .ofJump (mem_writers (opcodeOf_append24 ..) (by decide)) h
  | bne => exact .ofJump (mem_writers (opcodeOf_append24 ..) (by decide)) h
  | bl => exact .ofJump (mem_writers (opcodeOf_append24 ..) (by decide)) h
  | ble => exact .ofJump (mem_writers (opcodeOf_append24 ..) (by decide)) h
  | bg => exact .ofJump (mem_writers (opcodeOf_append24 ..) (by decide)) h
  | bge => exact .ofJump (mem_writers (opcodeOf_append24 ..) (by decide)) h
  | jmp => exact .ofJump (mem_writers (opcodeOf_append24 ..) (by decide)) h
  | jmpr => exact .ofWithReg h fun X hx h => .ofJump (mem_writers (opcodeOf_append16 ..) (by decide)) h
  | go => cases h; exact .jumped _ (mem_writers (opcodeOf_append24 ..) (by decide))
  | call => exact .ofCall h
  | ret => exact .ofRet h
  | wake => exact .ofWake h
  | kill => cases h; exact .killed rfl

end Sys2Proof.Machine
end

