-- ==== Sys2Proof/Laws/PerInstr.lean ====
section
/-! SUPPORT. Per instruction: the opcode of its word is a row of the opcode map that builds this very instruction from
the word's fields (30_encoding.md R113). -/

namespace Sys2Proof.Laws.Opcode

/-- Some row of the opcode map has the opcode of the instruction's word and makes the instruction of its fields. -/
def Statement (i : Instr) : Prop :=
  ∃ row ∈ opcodeRows, row.1 = opcodeOf (encode i) ∧ row.2 (fieldsOf (encode i)) = i

section
variable {op : Byte}

theorem format000_row {i : Instr} (h : (op, fun _ => i) ∈ opcodeRows) (he : encode i = format000 op) :
    Statement i :=
  ⟨_, h, by rw [he]; exact (opcodeOf_append24 ..).symm, rfl⟩

theorem formatNNN_row {c : BitVec 24 → Instr} (h : (op, fun f => c f.n24) ∈ opcodeRows) (n : BitVec 24)
    (he : encode (c n) = formatNNN op n) : Statement (c n) :=
  ⟨_, h, by rw [he]; exact (opcodeOf_append24 ..).symm, by rw [he]; exact congrArg c (n24_append24 ..)⟩

theorem formatRRR_row {c : RegNumber → RegNumber → RegNumber → Instr}
    (h : (op, fun f => c f.x f.y f.z) ∈ opcodeRows) (x y z : RegNumber)
    (he : encode (c x y z) = op ++ x ++ y ++ z) : Statement (c x y z) :=
  ⟨_, h, by rw [he]; exact (opcodeOf_bytes ..).symm,
    by rw [he]; simp only [x_bytes, y_bytes, z_bytes]⟩

theorem formatRR0_row {c : RegNumber → RegNumber → Instr} (h : (op, fun f => c f.x f.y) ∈ opcodeRows)
    (x y : RegNumber) (he : encode (c x y) = op ++ x ++ y ++ 0#8) : Statement (c x y) :=
  ⟨_, h, by rw [he]; exact (opcodeOf_bytes ..).symm, by rw [he]; simp only [x_bytes, y_bytes]⟩

theorem formatRNN_row {c : RegNumber → BitVec 16 → Instr} (h : (op, fun f => c f.x f.n16) ∈ opcodeRows)
    (x : RegNumber) (n : BitVec 16) (he : encode (c x n) = op ++ x ++ n) : Statement (c x n) :=
  ⟨_, h, by rw [he]; exact (opcodeOf_append16 ..).symm, by rw [he]; simp only [x_append16, n16_append16]⟩

theorem formatR00_row {c : RegNumber → Instr} (h : (op, fun f => c f.x) ∈ opcodeRows)
    (x : RegNumber) (he : encode (c x) = op ++ x ++ 0#16) : Statement (c x) :=
  ⟨_, h, by rw [he]; exact (opcodeOf_append16 ..).symm, by rw [he]; simp only [x_append16]⟩

end

theorem nop : Statement (.nop) :=
  format000_row (op := 0x00) (List.mem_of_getElem (i := 0) (h := by decide) rfl) rfl

theorem rst : Statement (.rst) :=
  format000_row (op := 0x01) (List.mem_of_getElem (i := 1) (h := by decide) rfl) rfl

theorem crm (n : BitVec 24) : Statement (.crm n) :=
  formatNNN_row (op := 0x02) (c := .crm) (List.mem_of_getElem (i := 2) (h := by decide) rfl) n rfl

theorem csm (n : BitVec 24) : Statement (.csm n) :=
  formatNNN_row (op := 0x03) (c := .csm) (List.mem_of_getElem (i := 3) (h := by decide) rfl) n rfl

theorem die : Statement (.die) :=
  format000_row (op := 0x04) (List.mem_of_getElem (i := 4) (h := by decide) rfl) rfl

theorem rsr : Statement (.rsr) :=
  format000_row (op := 0x05) (List.mem_of_getElem (i := 5) (h := by decide) rfl) rfl

theorem autsm : Statement (.autsm) :=
  format000_row (op := 0x06) (List.mem_of_getElem (i := 6) (h := by decide) rfl) rfl

theorem socl : Statement (.socl) :=
  format000_row (op := 0x07) (List.mem_of_getElem (i := 7) (h := by decide) rfl) rfl

theorem hate : Statement (.hate) :=
  format000_row (op := 0x08) (List.mem_of_getElem (i := 8) (h := by decide) rfl) rfl

theorem trst : Statement (.trst) :=
  format000_row (op := 0x09) (List.mem_of_getElem (i := 9) (h := by decide) rfl) rfl

theorem zmb : Statement (.zmb) :=
  format000_row (op := 0x0A) (List.mem_of_getElem (i := 10) (h := by decide) rfl) rfl

theorem aliv : Statement (.aliv) :=
  format000_row (op := 0x0B) (List.mem_of_getElem (i := 11) (h := by decide) rfl) rfl

theorem set (x : RegNumber) (n : BitVec 16) : Statement (.set x n) :=
  formatRNN_row (op := 0x10) (c := .set) (List.mem_of_getElem (i := 12) (h := by decide) rfl) x n rfl

theorem setu (x : RegNumber) (n : BitVec 16) : Statement (.setu x n) :=
  formatRNN_row (op := 0x11) (c := .setu) (List.mem_of_getElem (i := 13) (h := by decide) rfl) x n rfl

theorem copy (x y : RegNumber) : Statement (.copy x y) :=
  formatRR0_row (op := 0x18) (c := .copy) (List.mem_of_getElem (i := 14) (h := by decide) rfl) x y rfl

theorem move (x y : RegNumber) : Statement (.move x y) :=
  formatRR0_row (op := 0x1A) (c := .move) (List.mem_of_getElem (i := 15) (h := by decide) rfl) x y rfl

theorem lb (x y z : RegNumber) : Statement (.lb x y z) :=
  formatRRR_row (op := 0x20) (c := .lb) (List.mem_of_getElem (i := 16) (h := by decide) rfl) x y z rfl

theorem lbu (x y z : RegNumber) : Statement (.lbu x y z) :=
  formatRRR_row (op := 0x21) (c := .lbu) (List.mem_of_getElem (i := 17) (h := by decide) rfl) x y z rfl

theorem lh (x y z : RegNumber) : Statement (.lh x y z) :=
  formatRRR_row (op := 0x22) (c := .lh) (List.mem_of_getElem (i := 18) (h := by decide) rfl) x y z rfl

theorem lhu (x y z : RegNumber) : Statement (.lhu x y z) :=
  formatRRR_row (op := 0x23) (c := .lhu) (List.mem_of_getElem (i := 19) (h := by decide) rfl) x y z rfl

theorem lw (x y z : RegNumber) : Statement (.lw x y z) :=
  formatRRR_row (op := 0x24) (c := .lw) (List.mem_of_getElem (i := 20) (h := by decide) rfl) x y z rfl

theorem lwu (x y z : RegNumber) : Statement (.lwu x y z) :=
  formatRRR_row (op := 0x25) (c := .lwu) (List.mem_of_getElem (i := 21) (h := by decide) rfl) x y z rfl

theorem lbi (x y : RegNumber) (n : BitVec 8) : Statement (.lbi x y n) :=
  formatRRR_row (op := 0x28) (c := .lbi) (List.mem_of_getElem (i := 22) (h := by decide) rfl) x y n rfl

theorem lbui (x y : RegNumber) (n : BitVec 8) : Statement (.lbui x y n) :=
  formatRRR_row (op := 0x29) (c := .lbui) (List.mem_of_getElem (i := 23) (h := by decide) rfl) x y n rfl

theorem lhi (x y : RegNumber) (n : BitVec 8) : Statement (.lhi x y n) :=
  formatRRR_row (op := 0x2A) (c := .lhi) (List.mem_of_getElem (i := 24) (h := by decide) rfl) x y n rfl

theorem lhui (x y : RegNumber) (n : BitVec 8) : Statement (.lhui x y n) :=
  formatRRR_row (op := 0x2B) (c := .lhui) (List.mem_of_getElem (i := 25) (h := by decide) rfl) x y n rfl

theorem lwi (x y : RegNumber) (n : BitVec 8) : Statement (.lwi x y n) :=
  formatRRR_row (op := 0x2C) (c := .lwi) (List.mem_of_getElem (i := 26) (h := by decide) rfl) x y n rfl

theorem lwui (x y : RegNumber) (n : BitVec 8) : Statement (.lwui x y n) :=
  formatRRR_row (op := 0x2D) (c := .lwui) (List.mem_of_getElem (i := 27) (h := by decide) rfl) x y n rfl

theorem sb (x y z : RegNumber) : Statement (.sb x y z) :=
  formatRRR_row (op := 0x30) (c := .sb) (List.mem_of_getElem (i := 28) (h := by decide) rfl) x y z rfl

theorem sbu (x y z : RegNumber) : Statement (.sbu x y z) :=
  formatRRR_row (op := 0x31) (c := .sbu) (List.mem_of_getElem (i := 29) (h := by decide) rfl) x y z rfl

theorem sh (x y z : RegNumber) : Statement (.sh x y z) :=
  formatRRR_row (op := 0x32) (c := .sh) (List.mem_of_getElem (i := 30) (h := by decide) rfl) x y z rfl

theorem shu (x y z : RegNumber) : Statement (.shu x y z) :=
  formatRRR_row (op := 0x33) (c := .shu) (List.mem_of_getElem (i := 31) (h := by decide) rfl) x y z rfl

theorem sw (x y z : RegNumber) : Statement (.sw x y z) :=
  formatRRR_row (op := 0x34) (c := .sw) (List.mem_of_getElem (i := 32) (h := by decide) rfl) x y z rfl

theorem swu (x y z : RegNumber) : Statement (.swu x y z) :=
  formatRRR_row (op := 0x35) (c := .swu) (List.mem_of_getElem (i := 33) (h := by decide) rfl) x y z rfl

theorem sbi (x y : RegNumber) (n : BitVec 8) : Statement (.sbi x y n) :=
  formatRRR_row (op := 0x38) (c := .sbi) (List.mem_of_getElem (i := 34) (h := by decide) rfl) x y n rfl

theorem sbui (x y : RegNumber) (n : BitVec 8) : Statement (.sbui x y n) :=
  formatRRR_row (op := 0x39) (c := .sbui) (List.mem_of_getElem (i := 35) (h := by decide) rfl) x y n rfl

theorem shi (x y : RegNumber) (n : BitVec 8) : Statement (.shi x y n) :=
  formatRRR_row (op := 0x3A) (c := .shi) (List.mem_of_getElem (i := 36) (h := by decide) rfl) x y n rfl

theorem shui (x y : RegNumber) (n : BitVec 8) : Statement (.shui x y n) :=
  formatRRR_row (op := 0x3B) (c := .shui) (List.mem_of_getElem (i := 37) (h := by decide) rfl) x y n rfl

theorem swi (x y : RegNumber) (n : BitVec 8) : Statement (.swi x y n) :=
  formatRRR_row (op := 0x3C) (c := .swi) (List.mem_of_getElem (i := 38) (h := by decide) rfl) x y n rfl

theorem swui (x y : RegNumber) (n : BitVec 8) : Statement (.swui x y n) :=
  formatRRR_row (op := 0x3D) (c := .swui) (List.mem_of_getElem (i := 39) (h := by decide) rfl) x y n rfl

theorem pushb (x : RegNumber) : Statement (.pushb x) :=
  formatR00_row (op := 0x40) (c := .pushb) (List.mem_of_getElem (i := 40) (h := by decide) rfl) x rfl

theorem pushh (x : RegNumber) : Statement (.pushh x) :=
  formatR00_row (op := 0x41) (c := .pushh) (List.mem_of_getElem (i := 41) (h := by decide) rfl) x rfl

theorem push (x : RegNumber) : Statement (.push x) :=
  formatR00_row (op := 0x42) (c := .push) (List.mem_of_getElem (i := 42) (h := by decide) rfl) x rfl

theorem popb (x : RegNumber) : Statement (.popb x) :=
  formatR00_row (op := 0x48) (c := .popb) (List.mem_of_getElem (i := 43) (h := by decide) rfl) x rfl

theorem poph (x : RegNumber) : Statement (.poph x) :=
  formatR00_row (op := 0x49) (c := .poph) (List.mem_of_getElem (i := 44) (h := by decide) rfl) x rfl

theorem pop (x : RegNumber) : Statement (.pop x) :=
  formatR00_row (op := 0x4A) (c := .pop) (List.mem_of_getElem (i := 45) (h := by decide) rfl) x rfl

theorem add (x y z : RegNumber) : Statement (.add x y z) :=
  formatRRR_row (op := 0x50) (c := .add) (List.mem_of_getElem (i := 46) (h := by decide) rfl) x y z rfl

theorem addu (x y z : RegNumber) : Statement (.addu x y z) :=
  formatRRR_row (op := 0x51) (c := .addu) (List.mem_of_getElem (i := 47) (h := by decide) rfl) x y z rfl

theorem addi (x y : RegNumber) (n : BitVec 8) : Statement (.addi x y n) :=
  formatRRR_row (op := 0x52) (c := .addi) (List.mem_of_getElem (i := 48) (h := by decide) rfl) x y n rfl

theorem addiu (x y : RegNumber) (n : BitVec 8) : Statement (.addiu x y n) :=
  formatRRR_row (op := 0x53) (c := .addiu) (List.mem_of_getElem (i := 49) (h := by decide) rfl) x y n rfl

theorem sub (x y z : RegNumber) : Statement (.sub x y z) :=
  formatRRR_row (op := 0x58) (c := .sub) (List.mem_of_getElem (i := 50) (h := by decide) rfl) x y z rfl

theorem subu (x y z : RegNumber) : Statement (.subu x y z) :=
  formatRRR_row (op := 0x59) (c := .subu) (List.mem_of_getElem (i := 51) (h := by decide) rfl) x y z rfl

theorem subi (x y : RegNumber) (n : BitVec 8) : Statement (.subi x y n) :=
  formatRRR_row (op := 0x5A) (c := .subi) (List.mem_of_getElem (i := 52) (h := by decide) rfl) x y n rfl

theorem subiu (x y : RegNumber) (n : BitVec 8) : Statement (.subiu x y n) :=
  formatRRR_row (op := 0x5B) (c := .subiu) (List.mem_of_getElem (i := 53) (h := by decide) rfl) x y n rfl

theorem mul (x y : RegNumber) : Statement (.mul x y) :=
  formatRR0_row (op := 0x60) (c := .mul) (List.mem_of_getElem (i := 54) (h := by decide) rfl) x y rfl

theorem mulu (x y : RegNumber) : Statement (.mulu x y) :=
  formatRR0_row (op := 0x61) (c := .mulu) (List.mem_of_getElem (i := 55) (h := by decide) rfl) x y rfl

theorem muli (x : RegNumber) (n : BitVec 16) : Statement (.muli x n) :=
  formatRNN_row (op := 0x62) (c := .muli) (List.mem_of_getElem (i := 56) (h := by decide) rfl) x n rfl

theorem muliu (x : RegNumber) (n : BitVec 16) : Statement (.muliu x n) :=
  formatRNN_row (op := 0x63) (c := .muliu) (List.mem_of_getElem (i := 57) (h := by decide) rfl) x n rfl

theorem muld (x y z : RegNumber) : Statement (.muld x y z) :=
  formatRRR_row (op := 0x64) (c := .muld) (List.mem_of_getElem (i := 58) (h := by decide) rfl) x y z rfl

theorem div (x y : RegNumber) : Statement (.div x y) :=
  formatRR0_row (op := 0x68) (c := .div) (List.mem_of_getElem (i := 59) (h := by decide) rfl) x y rfl

theorem divu (x y : RegNumber) : Statement (.divu x y) :=
  formatRR0_row (op := 0x69) (c := .divu) (List.mem_of_getElem (i := 60) (h := by decide) rfl) x y rfl

theorem divi (x : RegNumber) (n : BitVec 16) : Statement (.divi x n) :=
  formatRNN_row (op := 0x6A) (c := .divi) (List.mem_of_getElem (i := 61) (h := by decide) rfl) x n rfl

theorem diviu (x : RegNumber) (n : BitVec 16) : Statement (.diviu x n) :=
  formatRNN_row (op := 0x6B) (c := .diviu) (List.mem_of_getElem (i := 62) (h := by decide) rfl) x n rfl

theorem divd (x y z : RegNumber) : Statement (.divd x y z) :=
  formatRRR_row (op := 0x6C) (c := .divd) (List.mem_of_getElem (i := 63) (h := by decide) rfl) x y z rfl

theorem mod (x y z : RegNumber) : Statement (.mod x y z) :=
  formatRRR_row (op := 0x70) (c := .mod) (List.mem_of_getElem (i := 64) (h := by decide) rfl) x y z rfl

theorem modi (x y : RegNumber) (n : BitVec 8) : Statement (.modi x y n) :=
  formatRRR_row (op := 0x72) (c := .modi) (List.mem_of_getElem (i := 65) (h := by decide) rfl) x y n rfl

theorem abs (x y : RegNumber) : Statement (.abs x y) :=
  formatRR0_row (op := 0x78) (c := .abs) (List.mem_of_getElem (i := 66) (h := by decide) rfl) x y rfl

theorem neg (x y : RegNumber) : Statement (.neg x y) :=
  formatRR0_row (op := 0x80) (c := .neg) (List.mem_of_getElem (i := 67) (h := by decide) rfl) x y rfl

theorem inc (x : RegNumber) : Statement (.inc x) :=
  formatR00_row (op := 0x81) (c := .inc) (List.mem_of_getElem (i := 68) (h := by decide) rfl) x rfl

theorem dec (x : RegNumber) : Statement (.dec x) :=
  formatR00_row (op := 0x82) (c := .dec) (List.mem_of_getElem (i := 69) (h := by decide) rfl) x rfl

theorem and (x y z : RegNumber) : Statement (.and x y z) :=
  formatRRR_row (op := 0x90) (c := .and) (List.mem_of_getElem (i := 70) (h := by decide) rfl) x y z rfl

theorem andi (x y : RegNumber) (n : BitVec 8) : Statement (.andi x y n) :=
  formatRRR_row (op := 0x91) (c := .andi) (List.mem_of_getElem (i := 71) (h := by decide) rfl) x y n rfl

theorem or (x y z : RegNumber) : Statement (.or x y z) :=
  formatRRR_row (op := 0x92) (c := .or) (List.mem_of_getElem (i := 72) (h := by decide) rfl) x y z rfl

theorem ori (x y : RegNumber) (n : BitVec 8) : Statement (.ori x y n) :=
  formatRRR_row (op := 0x93) (c := .ori) (List.mem_of_getElem (i := 73) (h := by decide) rfl) x y n rfl

theorem xor (x y z : RegNumber) : Statement (.xor x y z) :=
  formatRRR_row (op := 0x94) (c := .xor) (List.mem_of_getElem (i := 74) (h := by decide) rfl) x y z rfl

theorem xori (x y : RegNumber) (n : BitVec 8) : Statement (.xori x y n) :=
  formatRRR_row (op := 0x95) (c := .xori) (List.mem_of_getElem (i := 75) (h := by decide) rfl) x y n rfl

theorem not (x y : RegNumber) : Statement (.not x y) :=
  formatRR0_row (op := 0x96) (c := .not) (List.mem_of_getElem (i := 76) (h := by decide) rfl) x y rfl

theorem noti (x : RegNumber) (n : BitVec 16) : Statement (.noti x n) :=
  formatRNN_row (op := 0x97) (c := .noti) (List.mem_of_getElem (i := 77) (h := by decide) rfl) x n rfl

theorem nand (x y z : RegNumber) : Statement (.nand x y z) :=
  formatRRR_row (op := 0x98) (c := .nand) (List.mem_of_getElem (i := 78) (h := by decide) rfl) x y z rfl

theorem nandi (x y : RegNumber) (n : BitVec 8) : Statement (.nandi x y n) :=
  formatRRR_row (op := 0x99) (c := .nandi) (List.mem_of_getElem (i := 79) (h := by decide) rfl) x y n rfl

theorem nor (x y z : RegNumber) : Statement (.nor x y z) :=
  formatRRR_row (op := 0x9A) (c := .nor) (List.mem_of_getElem (i := 80) (h := by decide) rfl) x y z rfl

theorem nori (x y : RegNumber) (n : BitVec 8) : Statement (.nori x y n) :=
  formatRRR_row (op := 0x9B) (c := .nori) (List.mem_of_getElem (i := 81) (h := by decide) rfl) x y n rfl

theorem shl (x y z : RegNumber) : Statement (.shl x y z) :=
  formatRRR_row (op := 0xA0) (c := .shl) (List.mem_of_getElem (i := 82) (h := by decide) rfl) x y z rfl

theorem shli (x y : RegNumber) (n : BitVec 8) : Statement (.shli x y n) :=
  formatRRR_row (op := 0xA1) (c := .shli) (List.mem_of_getElem (i := 83) (h := by decide) rfl) x y n rfl

theorem shr (x y z : RegNumber) : Statement (.shr x y z) :=
  formatRRR_row (op := 0xA2) (c := .shr) (List.mem_of_getElem (i := 84) (h := by decide) rfl) x y z rfl

theorem shri (x y : RegNumber) (n : BitVec 8) : Statement (.shri x y n) :=
  formatRRR_row (op := 0xA3) (c := .shri) (List.mem_of_getElem (i := 85) (h := by decide) rfl) x y n rfl

theorem shra (x y z : RegNumber) : Statement (.shra x y z) :=
  formatRRR_row (op := 0xA4) (c := .shra) (List.mem_of_getElem (i := 86) (h := by decide) rfl) x y z rfl

theorem shrai (x y : RegNumber) (n : BitVec 8) : Statement (.shrai x y n) :=
  formatRRR_row (op := 0xA5) (c := .shrai) (List.mem_of_getElem (i := 87) (h := by decide) rfl) x y n rfl

theorem rotl (x y z : RegNumber) : Statement (.rotl x y z) :=
  formatRRR_row (op := 0xA8) (c := .rotl) (List.mem_of_getElem (i := 88) (h := by decide) rfl) x y z rfl

theorem rotli (x y : RegNumber) (n : BitVec 8) : Statement (.rotli x y n) :=
  formatRRR_row (op := 0xA9) (c := .rotli) (List.mem_of_getElem (i := 89) (h := by decide) rfl) x y n rfl

theorem rotr (x y z : RegNumber) : Statement (.rotr x y z) :=
  formatRRR_row (op := 0xAA) (c := .rotr) (List.mem_of_getElem (i := 90) (h := by decide) rfl) x y z rfl

theorem rotri (x y : RegNumber) (n : BitVec 8) : Statement (.rotri x y n) :=
  formatRRR_row (op := 0xAB) (c := .rotri) (List.mem_of_getElem (i := 91) (h := by decide) rfl) x y n rfl

theorem cmp (x y : RegNumber) : Statement (.cmp x y) :=
  formatRR0_row (op := 0xB0) (c := .cmp) (List.mem_of_getElem (i := 92) (h := by decide) rfl) x y rfl

theorem cmpu (x y : RegNumber) : Statement (.cmpu x y) :=
  formatRR0_row (op := 0xB1) (c := .cmpu) (List.mem_of_getElem (i := 93) (h := by decide) rfl) x y rfl

theorem cmpi (x : RegNumber) (n : BitVec 16) : Statement (.cmpi x n) :=
  formatRNN_row (op := 0xB2) (c := .cmpi) (List.mem_of_getElem (i := 94) (h := by decide) rfl) x n rfl

theorem cmpiu (x : RegNumber) (n : BitVec 16) : Statement (.cmpiu x n) :=
  formatRNN_row (op := 0xB3) (c := .cmpiu) (List.mem_of_getElem (i := 95) (h := by decide) rfl) x n rfl

theorem be (n : BitVec 24) : Statement (.be n) :=
  formatNNN_row (op := 0xD0) (c := .be) (List.mem_of_getElem (i := 96) (h := by decide) rfl) n rfl

theorem bne (n : BitVec 24) : Statement (.bne n) :=
  formatNNN_row (op := 0xD1) (c := .bne) (List.mem_of_getElem (i := 97) (h := by decide) rfl) n rfl

theorem bl (n : BitVec 24) : Statement (.bl n) :=
  formatNNN_row (op := 0xD2) (c := .bl) (List.mem_of_getElem (i := 98) (h := by decide) rfl) n rfl

theorem ble (n : BitVec 24) : Statement (.ble n) :=
  formatNNN_row (op := 0xD3) (c := .ble) (List.mem_of_getElem (i := 99) (h := by decide) rfl) n rfl

theorem bg (n : BitVec 24) : Statement (.bg n) :=
  formatNNN_row (op := 0xD4) (c := .bg) (List.mem_of_getElem (i := 100) (h := by decide) rfl) n rfl

theorem bge (n : BitVec 24) : Statement (.bge n) :=
  formatNNN_row (op := 0xD5) (c := .bge) (List.mem_of_getElem (i := 101) (h := by decide) rfl) n rfl

theorem jmp (n : BitVec 24) : Statement (.jmp n) :=
  formatNNN_row (op := 0xD8) (c := .jmp) (List.mem_of_getElem (i := 102) (h := by decide) rfl) n rfl

theorem jmpr (x : RegNumber) : Statement (.jmpr x) :=
  formatR00_row (op := 0xD9) (c := .jmpr) (List.mem_of_getElem (i := 103) (h := by decide) rfl) x rfl

theorem go (n : BitVec 24) : Statement (.go n) :=
  formatNNN_row (op := 0xDF) (c := .go) (List.mem_of_getElem (i := 104) (h := by decide) rfl) n rfl

theorem call (n : BitVec 24) : Statement (.call n) :=
  formatNNN_row (op := 0xE0) (c := .call) (List.mem_of_getElem (i := 105) (h := by decide) rfl) n rfl

theorem ret : Statement (.ret) :=
  format000_row (op := 0xE1) (List.mem_of_getElem (i := 106) (h := by decide) rfl) rfl

theorem wake (n : BitVec 24) : Statement (.wake n) :=
  formatNNN_row (op := 0xF0) (c := .wake) (List.mem_of_getElem (i := 107) (h := by decide) rfl) n rfl

theorem kill : Statement (.kill) :=
  format000_row (op := 0xF8) (List.mem_of_getElem (i := 108) (h := by decide) rfl) rfl

end Sys2Proof.Laws.Opcode
end

