-- ==== Sys2Proof/Tests/Slice0.lean ====
section
/-! SUPPORT. Tests. The end states of the one-step tests are those of 95_test_vectors.md, by the vector's name; the words
of the decoder's tests are put together from the formats of 30_encoding.md R103 to R109 and the opcodes of R113. For
every statement with hypotheses a witness shows that they can be met, clause by clause. -/

namespace Sys2Proof.Tests

open Sys2Proof.Machine Sys2Proof.Claims

/-! ## Helpers -/

/-- Power-up with a word at address 0, some registers and some bytes of memory set. -/
def start (w : Word) (regs : List (Reg × Word)) (bytes : List (Nat × List Byte)) : State :=
  let s := regs.foldl (fun s p => s.setReg p.1 p.2) (State.reset.placeWord 0 w)
  { s with mem := bytes.foldl (fun m p => Memory.store m p.1 p.2) s.mem }

/-- R1 and R2 hold the two values. -/
def two (y z : Word) : State := start 0 [(.gpr 0, y), (.gpr 1, z)] []

def r1 : Reg := .gpr 0
def r2 : Reg := .gpr 1
def r3 : Reg := .gpr 2

/-- The answer is a next state of which the test holds. -/
def holdsNext (a : Answer State) (test : State → Bool) : Bool :=
  match a with
  | .next t => test t
  | .fault _ => false
  | .refused _ => false

theorem next_of {a : Answer State} {test : State → Bool} (h : holdsNext a test = true) :
    ∃ t, a = .next t ∧ test t = true := by
  cases a with
  | next t => exact ⟨t, rfl, h⟩
  | fault _ => cases h
  | refused _ => cases h

/-- One step leads to these registers and these bytes of memory. -/
def gives (s : State) (regs : List (Reg × Word)) (bytes : List (Nat × List Byte)) : Bool :=
  holdsNext (step s) fun t =>
    regs.all (fun p => t.content p.1 == p.2) &&
      bytes.all fun p => (List.range p.2.length).map (fun j => Memory.read t.mem (p.1 + j)) == p.2

/-- Each word decodes to its instruction. -/
def decodes (rows : List (Word × Instr)) : Bool := rows.all fun p => decide (decode p.1 = .ok p.2)

/-- The invariant as a test. -/
def invOk (s : State) : Bool :=
  s.params.valid && decide (s.busPorts = s.params.enumeratePorts) && Memory.wf s.mem
    && Memory.below s.params.memSize s.mem && decide (s.sp.toNat ≤ s.params.memMax)

theorem inv_of {s : State} (h : invOk s = true) : s.Inv := by
  simp only [invOk, Bool.and_eq_true, decide_eq_true_eq] at h
  exact ⟨⟨h.1.1.1.1, h.1.1.1.2, h.1.1.2, h.1.2⟩, h.2⟩

/-- The default operating system is not one of the environment. -/
theorem not_environment {s : State} {i : Instr} (h : s.params.wakeHandler = .recording) : ¬ s.CallsEnvironment i :=
  fun hc => by have := hc.2.2; rw [h] at this; cases this

/-- The next fetch as a test. -/
def fetchOk (s : State) (w : Word) : Bool :=
  invOk s && decide (s.power = .running) && decide (s.pc.toNat + 4 ≤ s.params.memSize) && s.wordAt s.pc.toNat == w

theorem willFetch_of {s : State} {w : Word} (h : fetchOk s w = true) : s.WillFetch w := by
  simp only [fetchOk, Bool.and_eq_true, decide_eq_true_eq, beq_iff_eq] at h
  exact ⟨(inv_of h.1.1.1).toSound, h.1.1.2, h.1.2, h.2⟩

/-! ## Well-formedness: numbers that name no register (R46, R115) -/

theorem test_wellFormed_x : ([0x00, 0x21, 0x32, 0x40, 0xFF].all fun r : RegNumber =>
    !(Instr.set r 1).wellFormed && !(Instr.copy r 1).wellFormed && !(Instr.add r 1 2).wellFormed &&
      !(Instr.addi r 1 2).wellFormed && !(Instr.push r).wellFormed) = true := by decide

theorem test_wellFormed_y : ([0x00, 0x21, 0x32, 0x40, 0xFF].all fun r : RegNumber =>
    !(Instr.copy 1 r).wellFormed && !(Instr.add 1 r 2).wellFormed && !(Instr.addi 1 r 2).wellFormed) = true := by
  decide

theorem test_wellFormed_z : ([0x00, 0x21, 0x32, 0x40, 0xFF].all fun r : RegNumber =>
    !(Instr.add 1 2 r).wellFormed) = true := by decide

theorem test_wellFormed_accepts : ([0x01, 0x20, 0x33, 0x3F].all fun r : RegNumber =>
    (Instr.add r r r).wellFormed && (Instr.addi r r 0xFF).wellFormed && (Instr.jmp 0xFFFFFF).wellFormed) = true := by
  decide

/-- V41.38, V41.39: the word of an ill-formed instruction is reported when it runs. -/
theorem test_illFormed_runs :
    gives (start 0x24030021 [] []) [(.gpr 2, 0), (.err, 2), (.errm, 0x24030021)] [] = true := by decide

/-! ## The decoder and the encoder: a word of every instruction, the unused bytes not zero -/

theorem test_decode_control : decodes
    [ (0x00C3A55A, .nop), (0x01C3A55A, .rst), (0x0281A55A, .crm 0x81A55A),
      (0x0381A55A, .csm 0x81A55A), (0x04C3A55A, .die), (0x05C3A55A, .rsr),
      (0x06C3A55A, .autsm), (0x07C3A55A, .socl), (0x08C3A55A, .hate),
      (0x09C3A55A, .trst), (0x0AC3A55A, .zmb), (0x0BC3A55A, .aliv) ] = true := by
  decide

theorem test_decode_set_copy_load : decodes
    [ (0x100781A5, .set 0x07 0x81A5), (0x110781A5, .setu 0x07 0x81A5), (0x180734C3, .copy 0x07 0x34),
      (0x1A0734C3, .move 0x07 0x34), (0x2007343F, .lb 0x07 0x34 0x3F), (0x2107343F, .lbu 0x07 0x34 0x3F),
      (0x2207343F, .lh 0x07 0x34 0x3F), (0x2307343F, .lhu 0x07 0x34 0x3F), (0x2407343F, .lw 0x07 0x34 0x3F),
      (0x2507343F, .lwu 0x07 0x34 0x3F), (0x2807349C, .lbi 0x07 0x34 0x9C), (0x2907349C, .lbui 0x07 0x34 0x9C),
      (0x2A07349C, .lhi 0x07 0x34 0x9C), (0x2B07349C, .lhui 0x07 0x34 0x9C), (0x2C07349C, .lwi 0x07 0x34 0x9C),
      (0x2D07349C, .lwui 0x07 0x34 0x9C) ] = true := by
  decide

theorem test_decode_store_stack : decodes
    [ (0x3007343F, .sb 0x07 0x34 0x3F), (0x3107343F, .sbu 0x07 0x34 0x3F), (0x3207343F, .sh 0x07 0x34 0x3F),
      (0x3307343F, .shu 0x07 0x34 0x3F), (0x3407343F, .sw 0x07 0x34 0x3F), (0x3507343F, .swu 0x07 0x34 0x3F),
      (0x3807349C, .sbi 0x07 0x34 0x9C), (0x3907349C, .sbui 0x07 0x34 0x9C), (0x3A07349C, .shi 0x07 0x34 0x9C),
      (0x3B07349C, .shui 0x07 0x34 0x9C), (0x3C07349C, .swi 0x07 0x34 0x9C), (0x3D07349C, .swui 0x07 0x34 0x9C),
      (0x4007A55A, .pushb 0x07), (0x4107A55A, .pushh 0x07), (0x4207A55A, .push 0x07),
      (0x4807A55A, .popb 0x07), (0x4907A55A, .poph 0x07), (0x4A07A55A, .pop 0x07) ] = true := by
  decide

theorem test_decode_arithmetic : decodes
    [ (0x5007343F, .add 0x07 0x34 0x3F), (0x5107343F, .addu 0x07 0x34 0x3F), (0x5207349C, .addi 0x07 0x34 0x9C),
      (0x5307349C, .addiu 0x07 0x34 0x9C), (0x5807343F, .sub 0x07 0x34 0x3F), (0x5907343F, .subu 0x07 0x34 0x3F),
      (0x5A07349C, .subi 0x07 0x34 0x9C), (0x5B07349C, .subiu 0x07 0x34 0x9C), (0x600734C3, .mul 0x07 0x34),
      (0x610734C3, .mulu 0x07 0x34), (0x620781A5, .muli 0x07 0x81A5), (0x630781A5, .muliu 0x07 0x81A5),
      (0x6407343F, .muld 0x07 0x34 0x3F), (0x680734C3, .div 0x07 0x34), (0x690734C3, .divu 0x07 0x34),
      (0x6A0781A5, .divi 0x07 0x81A5), (0x6B0781A5, .diviu 0x07 0x81A5), (0x6C07343F, .divd 0x07 0x34 0x3F),
      (0x7007343F, .mod 0x07 0x34 0x3F), (0x7207349C, .modi 0x07 0x34 0x9C), (0x780734C3, .abs 0x07 0x34),
      (0x800734C3, .neg 0x07 0x34), (0x8107A55A, .inc 0x07), (0x8207A55A, .dec 0x07) ] = true := by
  decide

theorem test_decode_logic : decodes
    [ (0x9007343F, .and 0x07 0x34 0x3F), (0x9107349C, .andi 0x07 0x34 0x9C), (0x9207343F, .or 0x07 0x34 0x3F),
      (0x9307349C, .ori 0x07 0x34 0x9C), (0x9407343F, .xor 0x07 0x34 0x3F), (0x9507349C, .xori 0x07 0x34 0x9C),
      (0x960734C3, .not 0x07 0x34), (0x970781A5, .noti 0x07 0x81A5), (0x9807343F, .nand 0x07 0x34 0x3F),
      (0x9907349C, .nandi 0x07 0x34 0x9C), (0x9A07343F, .nor 0x07 0x34 0x3F), (0x9B07349C, .nori 0x07 0x34 0x9C),
      (0xA007343F, .shl 0x07 0x34 0x3F), (0xA107349C, .shli 0x07 0x34 0x9C), (0xA207343F, .shr 0x07 0x34 0x3F),
      (0xA307349C, .shri 0x07 0x34 0x9C), (0xA407343F, .shra 0x07 0x34 0x3F), (0xA507349C, .shrai 0x07 0x34 0x9C),
      (0xA807343F, .rotl 0x07 0x34 0x3F), (0xA907349C, .rotli 0x07 0x34 0x9C), (0xAA07343F, .rotr 0x07 0x34 0x3F),
      (0xAB07349C, .rotri 0x07 0x34 0x9C) ] = true := by
  decide

theorem test_decode_compare : decodes
    [ (0xB00734C3, .cmp 0x07 0x34), (0xB10734C3, .cmpu 0x07 0x34), (0xB20781A5, .cmpi 0x07 0x81A5),
      (0xB30781A5, .cmpiu 0x07 0x81A5) ] = true := by
  decide

theorem test_decode_branch : decodes
    [ (0xD081A55A, .be 0x81A55A), (0xD181A55A, .bne 0x81A55A), (0xD281A55A, .bl 0x81A55A),
      (0xD381A55A, .ble 0x81A55A), (0xD481A55A, .bg 0x81A55A), (0xD581A55A, .bge 0x81A55A),
      (0xD881A55A, .jmp 0x81A55A), (0xD907A55A, .jmpr 0x07), (0xDF81A55A, .go 0x81A55A) ] = true := by
  decide

theorem test_decode_subprogram_system : decodes
    [ (0xE081A55A, .call 0x81A55A), (0xE1C3A55A, .ret), (0xF081A55A, .wake 0x81A55A),
      (0xF8C3A55A, .kill) ] = true := by
  decide
/-- V41.42: an opcode that is not assigned, first by the decoder, then in a run. -/
theorem test_decode_unassigned : decode 0x19010200 = .error .illegalOpcode := by decide

theorem test_run_unassigned :
    gives (start 0x19010200 [] []) [(.err, 1), (.errm, 0x19010200), (.pc, 4)] [] = true := by decide

/-- S1: the bytes D0 prints for ADDI and SUBI. -/
theorem test_encode : encodeBytes (.addi 1 2 5) = [0x52, 0x01, 0x02, 0x05] ∧
    encodeBytes (.subi 2 2 4) = [0x5A, 0x02, 0x02, 0x04] := by decide

/-- S2: as the opcode table numbers the bits, and run as the first instruction after reset. -/
theorem test_tableWord : decodeTableWord 32 0x50010203 = some (.add 1 2 3) ∧
    gives (State.reset.withFetchWord 32 0x5301013F) [(.gpr 0, 0x3F), (.pc, 4)] [] = true := by decide

/-! ## Control (40_control.md), one step each -/

/-- V40.1. -/
theorem test_nop :
    gives (start 0x00000000 [] []) [(.pc, 0x4), (.ir, 0x0), (.lin, 0x0), (.err, 0x0)] [] = true := by decide

/-- V40.2. -/
theorem test_rst :
    gives (start 0x01000000 [(.gpr 0, 0x7), (.gpr 31, 0xFFFFFFFF), (.hi, 0x9)] [])
      [(.gpr 0, 0x0), (.gpr 31, 0x0), (.hi, 0x9), (.sp, 0x3FF), (.pc, 0x4)] [] = true := by decide

/-- V40.4. -/
theorem test_crm :
    gives (start 0x02000002 [] []) [(.err, 0x40), (.errm, 0x2000002)] [] = true := by decide

/-! ## Set, copy, load (41_set_copy_load.md) -/

/-- V41.1. -/
theorem test_set :
    gives (start 0x10018000 [] []) [(.gpr 0, 0xFFFF8000)] [] = true := by decide

/-- V41.6. -/
theorem test_set_2 :
    gives (start 0x103407D0 [] []) [(.sp, 0x3FF), (.err, 0x10), (.errm, 0x7D0)] [] = true := by decide

/-- V41.4. -/
theorem test_setu :
    gives (start 0x1101FFFF [(.gpr 0, 0x12345678)] []) [(.gpr 0, 0xFFFF)] [] = true := by decide

/-- V41.11. -/
theorem test_copy :
    gives (start 0x18023300 [] []) [(.gpr 1, 0x4)] [] = true := by decide

/-- V41.41. -/
theorem test_copy_2 :
    gives (start 0x180102FF [(.gpr 0, 0x7), (.gpr 1, 0x9)] [])
      [(.gpr 0, 0x9), (.err, 0x0)] [] = true := by decide

/-- V41.13. -/
theorem test_move :
    gives (start 0x1A020100 [(.gpr 0, 0x5), (.gpr 1, 0x9)] [])
      [(.gpr 0, 0x0), (.gpr 1, 0x5)] [] = true := by decide

/-- V41.16. -/
theorem test_move_2 :
    gives (start 0x1A013F00 [(.gpr 0, 0x5)] [])
      [(.gpr 0, 0x5), (.err, 0x4), (.errm, 0x3F)] [] = true := by decide

/-- V41.17. -/
theorem test_lb :
    gives (start 0x20030102 [(.gpr 0, 0x64), (.gpr 1, 0x0), (.gpr 2, 0xAABBCCDD)] [(100, [0x80, 0x81, 0x82, 0x83, 0x7F])])
      [(.gpr 2, 0xAABBCC80)] [] = true := by decide

/-- V41.36. -/
theorem test_lb_2 :
    gives (start 0x2003013F [(.gpr 0, 0xFFFFF6FE), (.gpr 2, 0x7)] [])
      [(.gpr 2, 0x0), (.err, 0x0)] [] = true := by decide

/-- V41.18. -/
theorem test_lbu :
    gives (start 0x21030102 [(.gpr 0, 0x64), (.gpr 1, 0x1), (.gpr 2, 0xAABBCCDD)] [(100, [0x80, 0x81, 0x82, 0x83, 0x7F])])
      [(.gpr 2, 0xAABBCC81)] [] = true := by decide

/-- V41.19. -/
theorem test_lh :
    gives (start 0x22030102 [(.gpr 0, 0x64), (.gpr 1, 0x1), (.gpr 2, 0xAABBCCDD)] [(100, [0x80, 0x81, 0x82, 0x83, 0x7F])])
      [(.gpr 2, 0xAABB8182)] [] = true := by decide

/-- V41.20. -/
theorem test_lhu :
    gives (start 0x23030102 [(.gpr 0, 0x64), (.gpr 1, 0xFFFFFFFF), (.gpr 2, 0xAABBCCDD)] [(99, [0x11]), (100, [0x80, 0x81, 0x82, 0x83, 0x7F])])
      [(.gpr 2, 0xAABB1180)] [] = true := by decide

/-- V41.21. -/
theorem test_lw :
    gives (start 0x24030102 [(.gpr 0, 0x64), (.gpr 1, 0x1), (.gpr 2, 0xAABBCCDD)] [(100, [0x80, 0x81, 0x82, 0x83, 0x7F])])
      [(.gpr 2, 0x8182837F)] [] = true := by decide

/-- V41.33. -/
theorem test_lw_2 :
    gives (start 0x2403013F [(.gpr 0, 0x3FE), (.gpr 2, 0x7)] [])
      [(.gpr 2, 0x7), (.err, 0x20), (.errm, 0x3FE)] [] = true := by decide

/-- V41.22. -/
theorem test_lwu :
    gives (start 0x25030102 [(.gpr 0, 0x64), (.gpr 1, 0x0), (.gpr 2, 0xAABBCCDD)] [(100, [0x80, 0x81, 0x82, 0x83, 0x7F])])
      [(.gpr 2, 0x80818283)] [] = true := by decide

/-- V41.23. -/
theorem test_lbi :
    gives (start 0x280301FF [(.gpr 0, 0x65), (.gpr 2, 0x0)] [(100, [0x80, 0x81, 0x82, 0x83, 0x7F])])
      [(.gpr 2, 0x80)] [] = true := by decide

/-- V41.29. -/
theorem test_lbi_2 :
    gives (start 0x280101FF [(.gpr 0, 0x0)] []) [(.gpr 0, 0x3)] [] = true := by decide

/-- V41.24. -/
theorem test_lbui :
    gives (start 0x290301FF [(.gpr 0, 0xFFFFFF65), (.gpr 2, 0x0)] [(100, [0x80, 0x81, 0x82, 0x83, 0x7F])])
      [(.gpr 2, 0x80)] [] = true := by decide

/-- V41.25. -/
theorem test_lhi :
    gives (start 0x2A030180 [(.gpr 0, 0xE4), (.gpr 2, 0xFFFFFFFF)] [(100, [0x80, 0x81, 0x82, 0x83, 0x7F])])
      [(.gpr 2, 0xFFFF8081)] [] = true := by decide

/-- V41.26. -/
theorem test_lhui :
    gives (start 0x2B030180 [(.gpr 0, 0xFFFFFFE4), (.gpr 2, 0x0)] [(100, [0x80, 0x81, 0x82, 0x83, 0x7F])])
      [(.gpr 2, 0x8081)] [] = true := by decide

/-- V41.27. -/
theorem test_lwi :
    gives (start 0x2C030101 [(.gpr 0, 0x64)] [(100, [0x80, 0x81, 0x82, 0x83, 0x7F])])
      [(.gpr 2, 0x8182837F)] [] = true := by decide

/-- V41.30. -/
theorem test_lwi_2 :
    gives (start 0x2C070100 [(.gpr 0, 0xFFFFFFF5)] []) [(.gpr 6, 0x400)] [] = true := by decide

/-- V41.28. -/
theorem test_lwui :
    gives (start 0x2D0301C8 [(.gpr 0, 0xFFFFFF9C)] [(100, [0x80, 0x81, 0x82, 0x83, 0x7F])])
      [(.gpr 2, 0x80818283)] [] = true := by decide

/-! ## Store, stack (42_store_stack.md) -/

/-- V42.1. -/
theorem test_sb :
    gives (start 0x3002013F [(.gpr 0, 0x80), (.gpr 1, 0x11223344)] [])
      [(.err, 0x0)] [(127, [0x00, 0x44, 0x00])] = true := by decide

/-- V42.2. -/
theorem test_sbu :
    gives (start 0x31020103 [(.gpr 0, 0x80), (.gpr 1, 0x11223344), (.gpr 2, 0x2)] [])
      [(.err, 0x0)] [(128, [0x00, 0x00, 0x44, 0x00])] = true := by decide

/-- V42.3. -/
theorem test_sh :
    gives (start 0x3202013F [(.gpr 0, 0x80), (.gpr 1, 0x11223344)] [])
      [(.err, 0x0)] [(127, [0x00, 0x33, 0x44, 0x00])] = true := by decide

/-- V42.4. -/
theorem test_shu :
    gives (start 0x33020103 [(.gpr 0, 0x80), (.gpr 1, 0x11223344), (.gpr 2, 0xFFFFFFFF)] [])
      [(.err, 0x0)] [(126, [0x00, 0x33, 0x44, 0x00])] = true := by decide

/-- V42.5. -/
theorem test_sw :
    gives (start 0x3402013F [(.gpr 0, 0x81), (.gpr 1, 0x11223344)] [])
      [(.err, 0x0)] [(128, [0x00, 0x11, 0x22, 0x33, 0x44, 0x00])] = true := by decide

/-- V42.13. -/
theorem test_sw_2 :
    gives (start 0x3402013F [(.gpr 0, 0x3FD), (.gpr 1, 0x11223344)] [])
      [(.err, 0x20), (.errm, 0x3FD)] [(1020, [0x00, 0x00, 0x00, 0x00])] = true := by decide

/-- V42.6. -/
theorem test_swu :
    gives (start 0x3502013F [(.gpr 0, 0x3FC), (.gpr 1, 0x11223344)] [])
      [(.err, 0x0)] [(1020, [0x11, 0x22, 0x33, 0x44])] = true := by decide

/-- V42.7. -/
theorem test_sbi :
    gives (start 0x38010280 [(.gpr 0, 0x1FF), (.gpr 1, 0x100)] [])
      [(.err, 0x0)] [(128, [0xFF])] = true := by decide

/-- V42.16. -/
theorem test_sbi_2 :
    gives (start 0x38020100 [(.gpr 0, 0xFFFFFFFF), (.gpr 1, 0x9)] [])
      [(.err, 0x20), (.errm, 0xFFFFFFFF)] [] = true := by decide

/-- V42.8. -/
theorem test_sbui :
    gives (start 0x390102FF [(.gpr 0, 0x1FF), (.gpr 1, 0x1)] [])
      [(.err, 0x0)] [(256, [0xFF])] = true := by decide

/-- V42.9. -/
theorem test_shi :
    gives (start 0x3A0102FE [(.gpr 0, 0x304), (.gpr 1, 0x82)] [])
      [(.err, 0x0)] [(128, [0x03, 0x04])] = true := by decide

/-- V42.10. -/
theorem test_shui :
    gives (start 0x3B0102FE [(.gpr 0, 0x304), (.gpr 1, 0x2)] [])
      [(.err, 0x0)] [(256, [0x03, 0x04])] = true := by decide

/-- V42.11. -/
theorem test_swi :
    gives (start 0x3C010238 [(.gpr 0, 0x1020304), (.gpr 1, 0xC8)] [])
      [(.err, 0x0)] [(256, [0x01, 0x02, 0x03, 0x04])] = true := by decide

/-- V42.12. -/
theorem test_swui :
    gives (start 0x3D0102C8 [(.gpr 0, 0x1020304), (.gpr 1, 0x38)] [])
      [(.err, 0x0)] [(256, [0x01, 0x02, 0x03, 0x04])] = true := by decide

/-- V42.18. -/
theorem test_pushb :
    gives (start 0x40010000 [(.gpr 0, 0x11223344)] [])
      [(.sp, 0x3FE), (.err, 0x0)] [(1020, [0x00, 0x00, 0x44, 0x00])] = true := by decide

/-- V42.23. -/
theorem test_pushb_2 :
    gives (start 0x40010000 [(.gpr 0, 0x1), (.sp, 0x0)] [])
      [(.sp, 0x0), (.err, 0x10), (.errm, 0xFFFFFFFF)] [] = true := by decide

/-- V42.19. -/
theorem test_pushh :
    gives (start 0x41010000 [(.gpr 0, 0x11223344)] [])
      [(.sp, 0x3FD), (.err, 0x0)] [(1020, [0x00, 0x33, 0x44, 0x00])] = true := by decide

/-- V42.20. -/
theorem test_push :
    gives (start 0x42010000 [(.gpr 0, 0x11223344)] [])
      [(.sp, 0x3FB), (.err, 0x0)] [(1016, [0x00, 0x00, 0x00, 0x11, 0x22, 0x33, 0x44, 0x00])] = true := by decide

/-- V42.30. -/
theorem test_push_2 :
    gives (start 0x42340000 [(.sp, 0x3E8)] [])
      [(.sp, 0x3E4), (.err, 0x0)] [(996, [0x00, 0x00, 0x03, 0xE4])] = true := by decide

/-- V42.26. -/
theorem test_popb :
    gives (start 0x48010000 [(.gpr 0, 0x201), (.sp, 0x3FE)] [(1022, [0x05])])
      [(.sp, 0x3FF), (.gpr 0, 0x205), (.err, 0x0)] [] = true := by decide

/-- V42.25. -/
theorem test_popb_2 :
    gives (start 0x48010000 [(.gpr 0, 0x201)] [(1023, [0x05])])
      [(.sp, 0x3FF), (.gpr 0, 0x201), (.err, 0x10), (.errm, 0x400)] [] = true := by decide

/-- V42.27. -/
theorem test_poph :
    gives (start 0x49010000 [(.gpr 0, 0x11223344), (.sp, 0x3E8)] [(1000, [0xAA, 0xBB, 0xCC, 0xDD])])
      [(.sp, 0x3EA), (.gpr 0, 0x1122AABB), (.err, 0x0)] [] = true := by decide

/-- V42.28. -/
theorem test_pop :
    gives (start 0x4A010000 [(.gpr 0, 0x11223344), (.sp, 0x3E8)] [(1000, [0xAA, 0xBB, 0xCC, 0xDD])])
      [(.sp, 0x3EC), (.gpr 0, 0xAABBCCDD), (.err, 0x0)] [] = true := by decide

/-- V42.29. -/
theorem test_pop_2 :
    gives (start 0x4A340000 [(.sp, 0x3E8)] [(1000, [0x00, 0x00, 0x00, 0xC8])])
      [(.sp, 0xCC), (.err, 0x0), (.errm, 0x0)] [] = true := by decide

/-! ## Arithmetic (43_arithmetic.md) -/

/-- V43.1. -/
theorem test_add :
    gives (start 0x50030102 [(.gpr 0, 0x7FFFFFFF), (.gpr 1, 0x1)] [])
      [(.gpr 2, 0x80000000), (.err, 0x0)] [] = true := by decide

/-- V43.2. -/
theorem test_add_2 :
    gives (start 0x50030102 [(.gpr 0, 0xFFFFFFFF), (.gpr 1, 0x1)] []) [(.gpr 2, 0x0)] [] = true := by decide

/-- V43.3. -/
theorem test_addu :
    gives (start 0x51030102 [(.gpr 0, 0x1), (.gpr 1, 0xFFFFFFFE)] [])
      [(.gpr 2, 0xFFFFFFFF)] [] = true := by decide

/-- V43.4. -/
theorem test_addi :
    gives (start 0x52020180 [(.gpr 0, 0x64)] []) [(.gpr 1, 0xFFFFFFE4)] [] = true := by decide

/-- V43.12. -/
theorem test_addi_2 :
    gives (start 0x52343401 [] []) [(.sp, 0x3FF), (.err, 0x10), (.errm, 0x400)] [] = true := by decide

/-- V43.5. -/
theorem test_addiu :
    gives (start 0x53020180 [(.gpr 0, 0x64)] []) [(.gpr 1, 0xE4)] [] = true := by decide

/-- V43.7. -/
theorem test_sub :
    gives (start 0x58030102 [(.gpr 0, 0x5), (.gpr 1, 0x7)] []) [(.gpr 2, 0xFFFFFFFE)] [] = true := by decide

/-- V43.8. -/
theorem test_subu :
    gives (start 0x59030102 [(.gpr 0, 0x80000000), (.gpr 1, 0x1)] [])
      [(.gpr 2, 0x7FFFFFFF)] [] = true := by decide

/-- V43.9. -/
theorem test_subi :
    gives (start 0x5A0201FF [(.gpr 0, 0x7FFFFFFF)] []) [(.gpr 1, 0x80000000)] [] = true := by decide

/-- V43.11. -/
theorem test_subi_2 :
    gives (start 0x5A343404 [] []) [(.sp, 0x3FB), (.err, 0x0)] [] = true := by decide

/-- V43.10. -/
theorem test_subiu :
    gives (start 0x5B0201FF [(.gpr 0, 0x0)] []) [(.gpr 1, 0xFFFFFF01)] [] = true := by decide

/-- V43.13. -/
theorem test_mul :
    gives (start 0x60010200 [(.gpr 0, 0x4), (.gpr 1, 0xFFFFFFFB), (.hi, 0x55), (.lo, 0x66)] [])
      [(.hi, 0xFFFFFFFF), (.lo, 0xFFFFFFEC), (.gpr 0, 0x4)] [] = true := by decide

/-- V43.14. -/
theorem test_mul_2 :
    gives (start 0x60010100 [(.gpr 0, 0xAAAAAAAA)] [])
      [(.hi, 0x1C71C71C), (.lo, 0xE38E38E4)] [] = true := by decide

/-- V43.15. -/
theorem test_mulu :
    gives (start 0x61010100 [(.gpr 0, 0xAAAAAAAA)] [])
      [(.hi, 0x71C71C70), (.lo, 0xE38E38E4)] [] = true := by decide

/-- V43.17. -/
theorem test_mulu_2 :
    gives (start 0x61010100 [(.gpr 0, 0xFFFFFFFF)] []) [(.hi, 0xFFFFFFFE), (.lo, 0x1)] [] = true := by decide

/-- V43.18. -/
theorem test_muli :
    gives (start 0x6201FFFE [(.gpr 0, 0x3)] []) [(.hi, 0xFFFFFFFF), (.lo, 0xFFFFFFFA)] [] = true := by decide

/-- V43.19. -/
theorem test_muliu :
    gives (start 0x6301FFFE [(.gpr 0, 0x3)] []) [(.hi, 0x0), (.lo, 0x2FFFA)] [] = true := by decide

/-- V43.20. -/
theorem test_muliu_2 :
    gives (start 0x63010002 [(.gpr 0, 0x80000001)] []) [(.hi, 0x1), (.lo, 0x2)] [] = true := by decide

/-- V43.21. -/
theorem test_muld :
    gives (start 0x64030102 [(.gpr 0, 0xAAAAAAAA), (.gpr 1, 0xAAAAAAAA), (.hi, 0x1), (.lo, 0x2)] [])
      [(.gpr 2, 0xE38E38E4), (.hi, 0x1), (.lo, 0x2)] [] = true := by decide

/-- V43.22. -/
theorem test_div :
    gives (start 0x68010200 [(.gpr 0, 0xFFFFFFF9), (.gpr 1, 0x2)] [])
      [(.hi, 0xFFFFFFFD), (.lo, 0xFFFFFFFF)] [] = true := by decide

/-- V43.25. -/
theorem test_div_2 :
    gives (start 0x68010200 [(.gpr 0, 0xA), (.gpr 1, 0x0), (.hi, 0x55), (.lo, 0x66)] [])
      [(.hi, 0x55), (.lo, 0x66), (.err, 0x8), (.errm, 0x68010200)] [] = true := by decide

/-- V43.26. -/
theorem test_divu :
    gives (start 0x69010200 [(.gpr 0, 0xFFFFFFF9), (.gpr 1, 0x2)] [])
      [(.hi, 0x7FFFFFFC), (.lo, 0x1)] [] = true := by decide

/-- V43.27. -/
theorem test_divi :
    gives (start 0x6A01FFFD [(.gpr 0, 0xA)] []) [(.hi, 0xFFFFFFFD), (.lo, 0x1)] [] = true := by decide

/-- V43.28. -/
theorem test_divi_2 :
    gives (start 0x6A010000 [(.gpr 0, 0xA), (.hi, 0x55), (.lo, 0x66)] [])
      [(.hi, 0x55), (.lo, 0x66), (.err, 0x8), (.errm, 0x6A010000)] [] = true := by decide

/-- V43.29. -/
theorem test_diviu :
    gives (start 0x6B01FFFF [(.gpr 0, 0xFFFFFFFF)] []) [(.hi, 0x10001), (.lo, 0x0)] [] = true := by decide

/-- V43.30. -/
theorem test_divd :
    gives (start 0x6C030102 [(.gpr 0, 0xFFFFFFF9), (.gpr 1, 0x2), (.hi, 0x55), (.lo, 0x66)] [])
      [(.gpr 2, 0xFFFFFFFD), (.hi, 0x55), (.lo, 0x66)] [] = true := by decide

/-- V43.31. -/
theorem test_mod :
    gives (start 0x70040102 [(.gpr 0, 0xFFFFFFFF), (.gpr 1, 0xA), (.hi, 0x55), (.lo, 0x66)] [])
      [(.gpr 3, 0x5), (.hi, 0x55), (.lo, 0x66)] [] = true := by decide

/-- V43.32. -/
theorem test_mod_2 :
    gives (start 0x70040102 [(.gpr 0, 0xA), (.gpr 1, 0x0), (.gpr 3, 0x7)] [])
      [(.gpr 3, 0x7), (.err, 0x8), (.errm, 0x70040102)] [] = true := by decide

/-- V43.33. -/
theorem test_modi :
    gives (start 0x720401FF [(.gpr 0, 0x3E8)] []) [(.gpr 3, 0xEB)] [] = true := by decide

/-- V43.34. -/
theorem test_modi_2 :
    gives (start 0x72040100 [(.gpr 0, 0x3E8), (.gpr 3, 0x7)] [])
      [(.gpr 3, 0x7), (.err, 0x8), (.errm, 0x72040100)] [] = true := by decide

/-- V43.35. -/
theorem test_abs :
    gives (start 0x78020100 [(.gpr 0, 0xFFFFFFFB)] [])
      [(.gpr 1, 0x5), (.gpr 0, 0xFFFFFFFB)] [] = true := by decide

/-- V43.36. -/
theorem test_abs_2 :
    gives (start 0x78020100 [(.gpr 0, 0x80000000)] []) [(.gpr 1, 0x80000000)] [] = true := by decide

/-- V43.37. -/
theorem test_neg :
    gives (start 0x80020100 [(.gpr 0, 0x5)] []) [(.gpr 1, 0xFFFFFFFB)] [] = true := by decide

/-- V43.38. -/
theorem test_neg_2 :
    gives (start 0x80020100 [(.gpr 0, 0x80000000)] []) [(.gpr 1, 0x80000000)] [] = true := by decide

/-- V43.39. -/
theorem test_inc :
    gives (start 0x81010000 [(.gpr 0, 0xFFFFFFFF)] []) [(.gpr 0, 0x0)] [] = true := by decide

/-- V43.42. -/
theorem test_inc_2 :
    gives (start 0x81340000 [] []) [(.sp, 0x3FF), (.err, 0x10), (.errm, 0x400)] [] = true := by decide

/-- V43.40. -/
theorem test_dec :
    gives (start 0x82010000 [(.gpr 0, 0x0)] []) [(.gpr 0, 0xFFFFFFFF)] [] = true := by decide

/-- V43.41. -/
theorem test_dec_2 :
    gives (start 0x82340000 [] []) [(.sp, 0x3FE), (.err, 0x0)] [] = true := by decide

/-! ## Logic, shifts, rotates (44_logic.md) -/

/-- V44.1. -/
theorem test_and :
    gives (start 0x90030102 [(.gpr 0, 0xF0F0A5A5), (.gpr 1, 0xFF0FF00)] [])
      [(.gpr 2, 0xF0A500)] [] = true := by decide

/-- V44.2. -/
theorem test_andi :
    gives (start 0x910301FF [(.gpr 0, 0xF0F0A5A5), (.gpr 1, 0xFF0FF00)] [])
      [(.gpr 2, 0xA5)] [] = true := by decide

/-- V44.3. -/
theorem test_or :
    gives (start 0x92030102 [(.gpr 0, 0xF0F0A5A5), (.gpr 1, 0xFF0FF00)] [])
      [(.gpr 2, 0xFFF0FFA5)] [] = true := by decide

/-- V44.4. -/
theorem test_ori :
    gives (start 0x9303015A [(.gpr 0, 0xF0F0A5A5), (.gpr 1, 0xFF0FF00)] [])
      [(.gpr 2, 0xF0F0A5FF)] [] = true := by decide

/-- V44.5. -/
theorem test_xor :
    gives (start 0x94030102 [(.gpr 0, 0xF0F0A5A5), (.gpr 1, 0xFF0FF00)] [])
      [(.gpr 2, 0xFF005AA5)] [] = true := by decide

/-- V44.6. -/
theorem test_xori :
    gives (start 0x950301FF [(.gpr 0, 0xF0F0A5A5), (.gpr 1, 0xFF0FF00)] [])
      [(.gpr 2, 0xF0F0A55A)] [] = true := by decide

/-- V44.7. -/
theorem test_not :
    gives (start 0x96030100 [(.gpr 0, 0xF0F0A5A5), (.gpr 1, 0xFF0FF00)] [])
      [(.gpr 2, 0xF0F5A5A)] [] = true := by decide

/-- V44.8. -/
theorem test_noti :
    gives (start 0x97030005 [] []) [(.gpr 2, 0xFFFFFFFA)] [] = true := by decide

/-- V44.9. -/
theorem test_noti_2 :
    gives (start 0x9703FFFF [] []) [(.gpr 2, 0xFFFF0000)] [] = true := by decide

/-- V44.10. -/
theorem test_nand :
    gives (start 0x98030102 [(.gpr 0, 0xF0F0A5A5), (.gpr 1, 0xFF0FF00)] [])
      [(.gpr 2, 0xFF0F5AFF)] [] = true := by decide

/-- V44.11. -/
theorem test_nandi :
    gives (start 0x990301FF [(.gpr 0, 0xF0F0A5A5), (.gpr 1, 0xFF0FF00)] [])
      [(.gpr 2, 0xFFFFFF5A)] [] = true := by decide

/-- V44.12. -/
theorem test_nor :
    gives (start 0x9A030102 [(.gpr 0, 0xF0F0A5A5), (.gpr 1, 0xFF0FF00)] [])
      [(.gpr 2, 0xF005A)] [] = true := by decide

/-- V44.13. -/
theorem test_nori :
    gives (start 0x9B03015A [(.gpr 0, 0xF0F0A5A5), (.gpr 1, 0xFF0FF00)] [])
      [(.gpr 2, 0xF0F5A00)] [] = true := by decide

/-- V44.15. -/
theorem test_shl :
    gives (start 0xA0030102 [(.gpr 0, 0x80000001), (.gpr 1, 0x1)] []) [(.gpr 2, 0x2)] [] = true := by decide

/-- V44.18. -/
theorem test_shl_2 :
    gives (start 0xA0030102 [(.gpr 0, 0x80000001), (.gpr 1, 0x21)] []) [(.gpr 2, 0x0)] [] = true := by decide

/-- V44.20. -/
theorem test_shli :
    gives (start 0xA1030104 [(.gpr 0, 0x80000001)] []) [(.gpr 2, 0x10)] [] = true := by decide

/-- V44.21. -/
theorem test_shli_2 :
    gives (start 0xA10301FF [(.gpr 0, 0x80000001)] []) [(.gpr 2, 0x0)] [] = true := by decide

/-- V44.15. -/
theorem test_shr :
    gives (start 0xA2040102 [(.gpr 0, 0x80000001), (.gpr 1, 0x1)] [])
      [(.gpr 3, 0x40000000)] [] = true := by decide

/-- V44.18. -/
theorem test_shr_2 :
    gives (start 0xA2040102 [(.gpr 0, 0x80000001), (.gpr 1, 0x21)] []) [(.gpr 3, 0x0)] [] = true := by decide

/-- V44.20. -/
theorem test_shri :
    gives (start 0xA3040104 [(.gpr 0, 0x80000001)] []) [(.gpr 3, 0x8000000)] [] = true := by decide

/-- V44.21. -/
theorem test_shri_2 :
    gives (start 0xA30401FF [(.gpr 0, 0x80000001)] []) [(.gpr 3, 0x0)] [] = true := by decide

/-- V44.15. -/
theorem test_shra :
    gives (start 0xA4050102 [(.gpr 0, 0x80000001), (.gpr 1, 0x1)] [])
      [(.gpr 4, 0xC0000000)] [] = true := by decide

/-- V44.18. -/
theorem test_shra_2 :
    gives (start 0xA4050102 [(.gpr 0, 0x80000001), (.gpr 1, 0x21)] [])
      [(.gpr 4, 0xFFFFFFFF)] [] = true := by decide

/-- V44.20. -/
theorem test_shrai :
    gives (start 0xA5050104 [(.gpr 0, 0x80000001)] []) [(.gpr 4, 0xF8000000)] [] = true := by decide

/-- V44.21. -/
theorem test_shrai_2 :
    gives (start 0xA50501FF [(.gpr 0, 0x80000001)] []) [(.gpr 4, 0xFFFFFFFF)] [] = true := by decide

/-- V44.15. -/
theorem test_rotl :
    gives (start 0xA8060102 [(.gpr 0, 0x80000001), (.gpr 1, 0x1)] []) [(.gpr 5, 0x3)] [] = true := by decide

/-- V44.18. -/
theorem test_rotl_2 :
    gives (start 0xA8060102 [(.gpr 0, 0x80000001), (.gpr 1, 0x21)] []) [(.gpr 5, 0x3)] [] = true := by decide

/-- V44.20. -/
theorem test_rotli :
    gives (start 0xA9060104 [(.gpr 0, 0x80000001)] []) [(.gpr 5, 0x18)] [] = true := by decide

/-- V44.21. -/
theorem test_rotli_2 :
    gives (start 0xA90601FF [(.gpr 0, 0x80000001)] []) [(.gpr 5, 0xC0000000)] [] = true := by decide

/-- V44.15. -/
theorem test_rotr :
    gives (start 0xAA070102 [(.gpr 0, 0x80000001), (.gpr 1, 0x1)] [])
      [(.gpr 6, 0xC0000000)] [] = true := by decide

/-- V44.18. -/
theorem test_rotr_2 :
    gives (start 0xAA070102 [(.gpr 0, 0x80000001), (.gpr 1, 0x21)] [])
      [(.gpr 6, 0xC0000000)] [] = true := by decide

/-- V44.20. -/
theorem test_rotri :
    gives (start 0xAB070104 [(.gpr 0, 0x80000001)] []) [(.gpr 6, 0x18000000)] [] = true := by decide

/-- V44.21. -/
theorem test_rotri_2 :
    gives (start 0xAB0701FF [(.gpr 0, 0x80000001)] []) [(.gpr 6, 0x3)] [] = true := by decide

/-! ## Compare, branch, jump (45_compare.md, 46_branch.md) -/

/-- V45.1. -/
theorem test_cmp :
    gives (start 0xB0010200 [(.gpr 0, 0xFFFFFFFF), (.gpr 1, 0x1)] [])
      [(.cmp, 0xFFFFFFFF)] [] = true := by decide

/-- V45.4. -/
theorem test_cmp_2 :
    gives (start 0xB0010200 [(.gpr 0, 0x7FFFFFFF), (.gpr 1, 0x80000000)] [])
      [(.cmp, 0x1)] [] = true := by decide

/-- V45.2. -/
theorem test_cmpu :
    gives (start 0xB1010200 [(.gpr 0, 0xFFFFFFFF), (.gpr 1, 0x1)] []) [(.cmp, 0x1)] [] = true := by decide

/-- V45.5. -/
theorem test_cmpi :
    gives (start 0xB201FFFF [(.gpr 0, 0xFFFFFFFF)] []) [(.cmp, 0x0)] [] = true := by decide

/-- V45.7. -/
theorem test_cmpi_2 :
    gives (start 0xB2018000 [(.gpr 0, 0xFFFF8000)] []) [(.cmp, 0x0)] [] = true := by decide

/-- V45.6. -/
theorem test_cmpiu :
    gives (start 0xB301FFFF [(.gpr 0, 0xFFFFFFFF)] []) [(.cmp, 0x1)] [] = true := by decide

/-- V45.8. -/
theorem test_cmpiu_2 :
    gives (start 0xB3010001 [(.gpr 0, 0x0)] []) [(.cmp, 0xFFFFFFFF)] [] = true := by decide

/-- V46.2. -/
theorem test_be :
    gives (start 0xD0000003 [(.cmp, 0x0)] []) [(.pc, 0x10)] [] = true := by decide

/-- V46.1. -/
theorem test_be_2 :
    gives (start 0xD0000003 [(.cmp, 0xFFFFFFFF)] []) [(.pc, 0x4)] [] = true := by decide

/-- V46.4. -/
theorem test_bne :
    gives (start 0xD1000003 [(.cmp, 0xFFFFFFFF)] []) [(.pc, 0x10)] [] = true := by decide

/-- V46.5. -/
theorem test_bne_2 :
    gives (start 0xD1000003 [(.cmp, 0x0)] []) [(.pc, 0x4)] [] = true := by decide

/-- V46.21. -/
theorem test_bl :
    gives (start 0xD2000005 [(.cmp, 0x80000000)] []) [(.pc, 0x18)] [] = true := by decide

/-- V46.9. -/
theorem test_bl_2 :
    gives (start 0xD2000003 [(.cmp, 0x1)] []) [(.pc, 0x4)] [] = true := by decide

/-- V46.11. -/
theorem test_ble :
    gives (start 0xD3000003 [(.cmp, 0x0)] []) [(.pc, 0x10)] [] = true := by decide

/-- V46.12. -/
theorem test_ble_2 :
    gives (start 0xD3000003 [(.cmp, 0x1)] []) [(.pc, 0x4)] [] = true := by decide

/-- V46.15. -/
theorem test_bg :
    gives (start 0xD4000003 [(.cmp, 0x1)] []) [(.pc, 0x10)] [] = true := by decide

/-- V46.14. -/
theorem test_bg_2 :
    gives (start 0xD4000003 [(.cmp, 0x0)] []) [(.pc, 0x4)] [] = true := by decide

/-- V46.17. -/
theorem test_bge :
    gives (start 0xD5000003 [(.cmp, 0x0)] []) [(.pc, 0x10)] [] = true := by decide

/-- V46.16. -/
theorem test_bge_2 :
    gives (start 0xD5000003 [(.cmp, 0xFFFFFFFF)] []) [(.pc, 0x4)] [] = true := by decide

/-- V46.22. -/
theorem test_jmp :
    gives (start 0xD8000002 [] []) [(.pc, 0xC)] [] = true := by decide

/-- V46.26. -/
theorem test_jmp_2 :
    gives (start 0xD8800000 [] []) [(.pc, 0xFE000004)] [] = true := by decide

/-- V46.29. -/
theorem test_jmpr :
    gives (start 0xD9010000 [(.gpr 0, 0x40000001)] []) [(.pc, 0x8)] [] = true := by decide

/-- V46.30. -/
theorem test_go :
    gives (start 0xDF000040 [] []) [(.pc, 0x40)] [] = true := by decide

/-! ## Subprogram, system (47_subprogram.md, 48_system.md) -/

/-- V47.3. -/
theorem test_call :
    gives (start 0xE0000028 [(.sp, 0x2)] [])
      [(.pc, 0x4), (.sp, 0x2), (.err, 0x10), (.errm, 0xFFFFFFFE)] [] = true := by decide

/-- V47.2. -/
theorem test_ret :
    gives (start 0xE1000000 [(.sp, 0x3FB)] [(1019, [0x00, 0x00, 0x00, 0x0C])])
      [(.pc, 0xC), (.sp, 0x3FF), (.err, 0x0)] [] = true := by decide

/-- V47.5. -/
theorem test_ret_2 :
    gives (start 0xE1000000 [(.sp, 0x3FC)] [(1020, [0x00, 0x00, 0x00, 0x0C])])
      [(.pc, 0x4), (.sp, 0x3FC), (.err, 0x10), (.errm, 0x400)] [] = true := by decide
/-! ## Instructions whose effect is not in a register -/

/-- V40.3. -/
theorem test_crm_2 : holdsNext (step (start 0x02000001 [] [])) (fun t => t.runmode = .single) = true := by
  decide

/-- V40.5. -/
theorem test_csm : holdsNext (step (start 0x03000005 [] [])) (fun t => t.sysmode = 5) = true := by decide

/-- V40.6. -/
theorem test_die : holdsNext (step (start 0x04000000 [] [])) (fun t => t.power = .off && t.pc == 4) = true := by
  decide

/-- V40.7, at address 0. -/
theorem test_rsr : gives (start 0x05000000 [(.gpr 0, 7), (.sp, 0x64), (.err, 4)] [])
    [(.pc, 0), (.sp, 0x3FF), (.gpr 0, 0), (.err, 0)] [(0, [5, 0, 0, 0])] = true := by decide

/-- V40.8, its first step; then a store that has no effect. -/
theorem test_autsm : holdsNext (step (start 0x06000000 [] [])) (fun t => !t.busOn) = true := by decide

theorem test_autsm_2 : gives { start 0x38010200 [(.gpr 0, 0x41), (.gpr 1, 0xC8)] [] with busOn := false }
    [(.err, 0), (.pc, 4)] [(200, [0])] = true := by decide

/-- V40.9, its fifth step. -/
theorem test_socl : holdsNext (step { start 0x07000000 [] [] with busOn := false }) (fun t => t.busOn) = true := by
  decide

/-- V40.12. -/
theorem test_hate : holdsNext (step { start 0x08000000 [] [] with protectOn := false }) (fun t => t.protectOn) = true := by
  decide

theorem test_trst : holdsNext (step (start 0x09000000 [] [])) (fun t => !t.protectOn && t.err == 0) = true := by
  decide

/-- V40.10, its first three steps. -/
theorem test_zmb : holdsNext (step (start 0x0A000000 [] [])) (fun t => t.zombie) = true := by decide

theorem test_zmb_2 : gives { start 0x10010005 [] [] with zombie := true } [(.gpr 0, 0), (.pc, 4), (.ir, 0x10010005)] []
    = true := by decide

theorem test_aliv : holdsNext (step { start 0x0B000000 [] [] with zombie := true }) (fun t => !t.zombie) = true := by
  decide

/-- V42.14, as one call of the device (R83), and V42.15. -/
theorem test_store_device : holdsNext (step (start 0x3402073F [(.gpr 6, 0x400), (.gpr 1, 0x41)] []))
    (fun t => t.deviceTrace = [.write 1 0 .word 0x41] && t.err == 0) = true := by decide

theorem test_load_device : holdsNext (step (start 0x2003013F [(.gpr 0, 1151)] []))
    (fun t => t.deviceTrace.length = 1 && t.err == 0) = true := by decide

/-- V47.1, at address 0. -/
theorem test_call_2 : gives (start 0xE0000028 [] []) [(.pc, 0x28), (.sp, 0x3FB), (.err, 0)]
    [(1018, [0, 0, 0, 0, 4, 0])] = true := by decide

/-- V48.1. -/
theorem test_wake : holdsNext (step (start 0xF0000007 [] [])) (fun t => t.wakeTrace = [7] && t.pc == 4) = true := by
  decide

/-- What an operating system of the environment cannot change: the parameters and the host's traces. -/
theorem test_wake_environment : holdsNext
    (step { start 0xF0000007 [] [] with params := { Config.params with wakeHandler := .environment } })
    (fun t => t.wakeTrace = [] && decide (t.params.wakeHandler = .environment) && t.busPorts.length == 3) = true := by
  decide

/-- V48.2. -/
theorem test_kill : holdsNext (step (start 0xF8000000 [] [])) (fun t => !t.osOn) = true := by decide

theorem test_wake_2 : holdsNext (step { start 0xF0000007 [] [] with osOn := false })
    (fun t => t.wakeTrace = [] && t.err == 0) = true := by decide

/-- V46.32, its second step: the four bytes at PC cannot be read. -/
theorem test_fetchError : holdsNext (step { start 0 [] [] with pc := 0xFFFFFF })
    (fun t => t.power = .waiting && t.err == 0x80 && t.errm == 0xFFFFFF && t.pc == 0xFFFFFF) = true := by decide

/-- A violation of the protection while it is off stops the model (U4, notes/assumptions/7.md). -/
theorem test_protectionOff : step { start 0x103F0005 [] [] with protectOn := false } =
    .fault (.protectionOff .writeProtected) := by rfl

/-! ## Witnesses: states and operands that meet the hypotheses of the statements -/

/-- R1 = 5, R2 = 3, SP = 1000 with the word 12 on the stack, `ADD R3 R1 R2` at PC. -/
def demo : State := start 0x50030102 [(.gpr 0, 5), (.gpr 1, 3), (.sp, 1000)] [(1000, [0, 0, 0, 12])]

theorem demo_inv : demo.Inv := inv_of (by decide)

theorem witness_UnassignedOpcodesAreReported :
    ((start 0x0C000000 [] []).WillFetch 0x0C000000 ∧ (start 0x0C000000 [] []).zombie = false ∧
      ∃ range ∈ unassignedOpcodes, range.1 ≤ (0x0C000000 : Word).toNat / 2 ^ 24 ∧
        (0x0C000000 : Word).toNat / 2 ^ 24 ≤ range.2) ∧
    ((start 0xFFFFFFFF [] []).WillFetch 0xFFFFFFFF ∧ (start 0xFFFFFFFF [] []).zombie = false ∧
      ∃ range ∈ unassignedOpcodes, range.1 ≤ (0xFFFFFFFF : Word).toNat / 2 ^ 24 ∧
        (0xFFFFFFFF : Word).toNat / 2 ^ 24 ≤ range.2) :=
  ⟨⟨willFetch_of (by decide), by decide, by decide⟩, ⟨willFetch_of (by decide), by decide, by decide⟩⟩

/-- At the first and at the last address whose word lies in the memory. -/
theorem witness_StepRunsDecodedInstruction :
    (demo.WillFetch 0x50030102 ∧ demo.zombie = false ∧ decode 0x50030102 = .ok (.add 3 1 2)) ∧
      (State.WillFetch { start 0 [] [(1020, [0x81, 1, 0, 0])] with pc := 1020 } 0x81010000 ∧
        decode 0x81010000 = .ok (.inc 1)) :=
  ⟨⟨willFetch_of (by decide), by decide, by decide⟩, willFetch_of (by decide), by decide⟩

theorem witness_ZombieOnlyFetches :
    (State.WillFetch { demo with zombie := true } 0x50030102 ∧ (0x50030102 : Word).toNat / 2 ^ 24 ≠ 0x0B) ∧
      (State.WillFetch { start 0x0B000000 [] [] with zombie := true } 0x0B000000 ∧
        (0x0B000000 : Word).toNat / 2 ^ 24 = 0x0B) :=
  ⟨⟨willFetch_of (by decide), by decide⟩, willFetch_of (by decide), by decide⟩

theorem witness_StoppedMachineStays : State.power { demo with power := .off } ≠ .running ∧
    State.power { demo with power := .waiting } ≠ .running := by decide

/-- PC across the end of the memory, across the end of the last port, and below the table. -/
theorem witness_FetchErrorEndsRun : demo.power = .running ∧
    demo.CannotRead 1021 .word ∧ demo.CannotRead 1149 .word ∧ demo.CannotRead (-2304) .word := by
  refine ⟨by decide, .inl ⟨by decide, ?_⟩, .inl ⟨by decide, ?_⟩, .inr ⟨by decide, fun byteAt h => ?_⟩⟩
  · unfold State.NoPort; decide
  · unfold State.NoPort; decide
  · exact absurd h.2.1 (by decide)

/-- The smallest memory, and a bus with two further ports given out of order. -/
theorem witness_PortsAreConsecutive :
    (Params.valid { Config.params with memCapacity := 4 } = true ∧ Config.params.extraPorts = []) ∧
      Params.valid { Config.params with extraPorts := [⟨9, 16⟩, ⟨3, 0⟩] } = true := by decide

theorem witness_PowerUpRegisters :
    Params.valid { Config.params with memCapacity := 4 } = true ∧ Config.params.valid = true := by decide

/-- Power-up with two further ports, given out of order: five entries, so that the table's bytes end at -46. -/
def wide : State := State.powerUp { Config.params with extraPorts := [⟨9, 16⟩, ⟨3, 0⟩] } []

/-- The first and the last entry, the first and the last byte behind the entries, the first address below the table and
the lowest; and a bus without further ports, with the first and the last byte of its table. -/
theorem witness_BusTableDescribesPorts :
    (wide.Sound ∧ wide.busPorts[0]? = some ⟨0, 0, 1024⟩ ∧ wide.busPorts[3]? = some ⟨3, 1152, 0⟩ ∧
      wide.busPorts[4]? = some ⟨9, 1152, 16⟩ ∧
      (∀ k ∈ [47, 2306], 2 + 9 * wide.busPorts.length ≤ k ∧ k ≤ 2306) ∧ ∀ k ∈ [2307, 2 ^ 31], 2306 < k ∧ k ≤ 2 ^ 31) ∧
    (State.reset.Sound ∧ State.reset.params.extraPorts = [] ∧ ∀ k ∈ [1, 28, 29, 2306], 1 ≤ k ∧ k ≤ 2306) :=
  ⟨⟨(inv_of (by decide)).toSound, by decide, by decide, by decide, by decide, by decide⟩,
    (inv_of (by decide)).toSound, by decide, by decide⟩

theorem witness_BadRegistersAreReported :
    (Instr.add 1 2 0x00).wellFormed = false ∧ (Instr.jmpr 0x21).wellFormed = false ∧ demo.protectOn = true := by decide

/-- A field that names no register in each place (the hypotheses of `Claims.RefusesBadRegister`). -/
theorem witness_RefusesBadRegister :
    (∃ f ∈ [(0x00 : RegNumber), 1, 2], RegNumber.valid f = false) ∧
      (∃ f ∈ [(1 : RegNumber), 0x21, 2], RegNumber.valid f = false) ∧
      (∃ f ∈ [(1 : RegNumber), 2, 0x40], RegNumber.valid f = false) ∧
      (∃ f ∈ [(0x32 : RegNumber)], RegNumber.valid f = false) ∧ demo.protectOn = true := by decide

theorem witness_ProtectedDestinationsAreReported :
    ((Instr.inc 0x3F).wellFormed = true ∧
      (Instr.inc 0x3F).destinations.find? (fun r => r ∈ protectedNumbers) = some 0x3F) ∧
    ((Instr.move 1 0x33).wellFormed = true ∧
      (Instr.move 1 0x33).destinations.find? (fun r => r ∈ protectedNumbers) = some 0x33) ∧
    ((Instr.pop 0x36).wellFormed = true ∧ ((Instr.pop 0x36).usesBus = true → demo.busOn = true) ∧
      (Instr.pop 0x36).destinations.find? (fun r => r ∈ protectedNumbers) = some 0x36) ∧
    demo.protectOn = true := by decide

/-- R1, R2, SP and the word at 1020, with the protection mechanisms off. -/
def trusting (y z sp : Word) (bytes : List Byte) : State :=
  { start 0 [(.gpr 0, y), (.gpr 1, z), (.sp, sp)] [(1020, bytes)] with protectOn := false }

theorem witness_ViolationsAfterTrstStop :
    (trusting 0 0 0 []).protectOn = false ∧ (trusting 0 0 0 []).busOn = true ∧ (Instr.push 0).wellFormed = false ∧
      ((Instr.inc 0x3F).wellFormed = true ∧ ∃ x ∈ (Instr.inc 0x3F).destinations, x ∈ protectedNumbers) ∧
      ((Instr.pop 0x33).wellFormed = true ∧ ∃ x ∈ (Instr.pop 0x33).destinations, x ∈ protectedNumbers) := by decide

/-- Instruction i, in this state, is about to write the value MEM_MAX + 1 to SP. -/
def JustAbove (P : State → Instr → Word → Prop) (s : State) (i : Instr) : Prop :=
  ∃ v, P s i v ∧ v.toNat = s.params.memMax + 1

/-- One instruction of each form of `SpWrite`. -/
theorem witness_ViolationsAfterTrstStop_spWrite :
    JustAbove SpWrite (trusting 1000 24 0 []) (.add 0x34 1 2) ∧
      JustAbove SpWrite (trusting 1025 0 0 []) (.addi 0x34 1 0xFF) ∧
      JustAbove SpWrite (trusting 1024 0 0 []) (.copy 0x34 1) ∧ JustAbove SpWrite (trusting 0 0 0 []) (.set 0x34 1024) ∧
      JustAbove SpWrite (trusting 0 0 1023 []) (.inc 0x34) ∧ JustAbove SpWrite (trusting 1024 0 0 []) (.move 0x34 1) ∧
      JustAbove SpWrite (trusting 2048 2 0 []) (.divd 0x34 1 2) ∧
      JustAbove SpWrite (trusting 1024 2000 0 []) (.mod 0x34 1 2) :=
  ⟨⟨_, .rrr (f := (.add, fun y z => y + z)) (.head _) r1 r2, by decide⟩,
    ⟨_, .rrn (f := (.addi, fun y n => y + n.signExtend 32)) (.head _) r1 0xFF, by decide⟩,
    ⟨_, .rr0 (f := (.copy, fun y => y)) (.head _) r1, by decide⟩,
    ⟨_, .rnn (f := (.set, fun n => n.signExtend 32)) (.head _) 1024, by decide⟩,
    ⟨_, .r00 (f := (.inc, fun x => x + 1)) (.head _), by decide⟩, ⟨_, .move r1 (by decide), by decide⟩,
    ⟨_, .divd r1 r2 (by decide), by decide⟩, ⟨_, .mod r1 r2 (by decide), by decide⟩⟩

/-- MODI, whose remainder is below 255: in a memory of 100 bytes. -/
theorem witness_ViolationsAfterTrstStop_modi :
    JustAbove SpWrite { trusting 100 0 0 [] with params := { Config.params with memCapacity := 100 } }
      (.modi 0x34 1 200) :=
  ⟨_, .modi r1 200 (by decide), by decide⟩

/-- `LW SP ZERO R1` and `POP SP` of the word 1024, `POP` and `RET` with SP = 1020, `POP SP` of the word 1020; `PUSH` and
`CALL` with SP = 3, whose value lies far above (no SP gives one just above). -/
theorem witness_ViolationsAfterTrstStop_onBus :
    JustAbove SpWriteOnBus (trusting 1020 0 0 [0, 0, 4, 0]) (.lw 0x34 0x3F 1) ∧
      JustAbove SpWriteOnBus (trusting 0 0 1020 [0, 0, 4, 0]) (.pop 0x34) ∧
      JustAbove SpWriteOnBus (trusting 0 0 1020 []) (.pop 1) ∧ JustAbove SpWriteOnBus (trusting 0 0 1020 []) .ret ∧
      JustAbove SpWriteOnBus (trusting 0 0 1020 [0, 0, 3, 0xFC]) (.pop 0x34) ∧
      (∃ v, SpWriteOnBus (trusting 0 0 3 []) (.push 1) v ∧ Config.params.memMax < v.toNat) ∧
      ∃ v, SpWriteOnBus (trusting 0 0 3 []) (.call 0) v ∧ Config.params.memMax < v.toNat :=
  ⟨⟨1024, .load (.lw .sp .zero r1) (v := 1024) (s1 := trusting 1020 0 0 [0, 0, 4, 0]) (by rfl) (by unfold Merged; decide),
      by decide⟩,
    ⟨1024, .popSp (.pop .sp 0 0) (v := 1024) (s1 := trusting 0 0 1020 [0, 0, 4, 0]) (by rfl) (by unfold Merged; decide),
      by decide⟩,
    ⟨_, .pop (.pop r1 0 0) (by decide) (by decide) (v := 0) (s1 := trusting 0 0 1020 []) (by rfl), by decide⟩,
    ⟨_, .ret (v := 0) (s1 := trusting 0 0 1020 []) (by rfl), by decide⟩,
    ⟨_, .popSpRaised (merged := 1020) (.pop .sp 0 0) (v := 1020) (s1 := trusting 0 0 1020 [0, 0, 3, 0xFC]) (by rfl)
      (by unfold Merged; decide), by decide⟩,
    ⟨_, .push (.push r1 0 0), by decide⟩, ⟨_, .call 0, by decide⟩⟩

theorem witness_BusInstructionsIdleWhileBusOff :
    ((Instr.push 1).usesBus = true ∧ (Instr.push 1).wellFormed = true) ∧ Instr.ret.usesBus = true ∧
      State.busOn { demo with busOn := false } = false := by decide

/-- An instruction that completes and that only writes R3: for the rules about what no instruction or few change. -/
theorem witness_OnlyJumpsChangePc :
    (∃ t, exec (.add 3 1 2) demo = .next t ∧ (t.content r3 == 8) = true) ∧
      ¬ demo.CallsEnvironment (.add 3 1 2) ∧ opcodeOf (encode (.add 3 1 2)) ∉ pcWriters ∧ Instr.add 3 1 2 ≠ .rsr :=
  ⟨next_of (test := fun t => t.content r3 == 8) (by decide), not_environment (by decide), by decide, by decide⟩

theorem witness_ErrorBitsStay :
    (∃ t, exec (.div 1 0x3F) { demo with err := 1 } = .next t ∧ (t.err == 9) = true) ∧
      ¬ State.CallsEnvironment { demo with err := 1 } (.div 1 0x3F) ∧ Instr.div 1 0x3F ≠ .rsr ∧
      Reg.err.number ∉ (Instr.div 1 0x3F).destinations ∧ (1 : Word).getLsbD 0 = true :=
  ⟨next_of (test := fun t => t.err == 9) (by decide), not_environment (by decide), by decide, by decide, by decide⟩

theorem witness_ModesChangeOnlyOnRequest :
    (∃ t, exec (.crm 1) demo = .next t ∧ (decide (t.runmode ≠ demo.runmode)) = true) ∧
      (∃ t, exec .autsm demo = .next t ∧ (decide (t.busOn ≠ demo.busOn)) = true) ∧
      (∃ t, exec .trst demo = .next t ∧ (decide (t.protectOn ≠ demo.protectOn)) = true) ∧
      (∃ t, exec .zmb demo = .next t ∧ (decide (t.zombie ≠ demo.zombie)) = true) ∧
      (∃ t, exec .kill demo = .next t ∧ (decide (t.osOn ≠ demo.osOn)) = true) ∧
      (∃ t, exec (.csm 0xFFFFFF) demo = .next t ∧ (decide (t.sysmode ≠ demo.sysmode)) = true) ∧
      (∃ t, exec .die demo = .next t ∧ (decide (t.power ≠ demo.power)) = true) ∧
      (∃ t, exec (.div 1 0x3F) { demo with params := { Config.params with errHalts := true } } = .next t ∧
        (decide (t.power ≠ demo.power)) = true) ∧
      ∀ i, ¬ demo.CallsEnvironment i :=
  ⟨next_of (test := fun t => decide (t.runmode ≠ demo.runmode)) (by decide),
    next_of (test := fun t => decide (t.busOn ≠ demo.busOn)) (by decide),
    next_of (test := fun t => decide (t.protectOn ≠ demo.protectOn)) (by decide),
    next_of (test := fun t => decide (t.zombie ≠ demo.zombie)) (by decide),
    next_of (test := fun t => decide (t.osOn ≠ demo.osOn)) (by decide),
    next_of (test := fun t => decide (t.sysmode ≠ demo.sysmode)) (by decide),
    next_of (test := fun t => decide (t.power ≠ demo.power)) (by decide),
    next_of (test := fun t => decide (t.power ≠ demo.power)) (by decide), fun _ => not_environment (by decide)⟩

theorem witness_ParametersStay :
    (∃ t, step demo = .next t ∧ (t.content r3 == 8) = true) ∧ demo.busPorts = demo.params.enumeratePorts :=
  ⟨next_of (test := fun t => t.content r3 == 8) (by decide), by decide⟩

theorem witness_OnlyStoresChangeMemory :
    (∃ t, exec (.pop 1) demo = .next t ∧ (t.content r1 == 12) = true) ∧
      ¬ demo.CallsEnvironment (.pop 1) ∧ opcodeOf (encode (.pop 1)) ∉ memoryWriters :=
  ⟨next_of (test := fun t => t.content r1 == 12) (by decide), not_environment (by decide), by decide⟩

theorem witness_GeneralRegistersChangeOnlyWhenNamed :
    (∃ t, exec (.move 3 1) demo = .next t ∧ (t.content r3 == 5) = true) ∧
      ¬ demo.CallsEnvironment (.move 3 1) ∧ Instr.move 3 1 ≠ .rst ∧
      Instr.move 3 1 ≠ .rsr ∧ (Reg.gpr 1).number ∉ (Instr.move 3 1).destinations :=
  ⟨next_of (test := fun t => t.content r3 == 5) (by decide), not_environment (by decide), by decide, by decide, by decide⟩

theorem witness_StepsAnswerAState : demo.protectOn = true := by decide

theorem witness_StepKeepsInvariant :
    demo.Sound ∧ demo.Inv ∧ HandlerKeepsSp demo.params ∧ ∃ t, step demo = .next t ∧ (t.content r3 == 8) = true :=
  ⟨demo_inv.toSound, demo_inv, fun h => absurd h (by decide), next_of (test := fun t => t.content r3 == 8) (by decide)⟩

/-- An image that reaches to the last byte of the memory. -/
theorem witness_PowerUpIsSound :
    Config.params.valid = true ∧ Memory.wf [(0, 0x81), (1, 1), (1023, 5)] = true ∧
      Memory.below Config.params.memSize [(0, 0x81), (1, 1), (1023, 5)] = true := by decide

/-- From there one step, the INC R1 at address 0. -/
theorem witness_ReachableStatesAreSound :
    HandlerKeepsSp Config.params ∧
      ∃ t, Reaches (State.powerUp Config.params [(0, 0x81), (1, 1), (1023, 5)]) 1 t ∧ (t.content r1 == 1) = true := by
  obtain ⟨t, h, ht⟩ := next_of (a := step (State.powerUp Config.params [(0, 0x81), (1, 1), (1023, 5)]))
    (test := fun t => t.content r1 == 1) (by decide)
  exact ⟨fun h => absurd h (by decide), t, .step h (.refl t), ht⟩

theorem witness_RunModeAndSystemModeAreInert :
    demo.params.wakeHandler = .recording ∧ ∃ t, step demo = .next t ∧ (t.content r3 == 8) = true :=
  ⟨by decide, next_of (test := fun t => t.content r3 == 8) (by decide)⟩

theorem witness_SoclAndKill : State.osOn { demo with osOn := false } = false ∧
    ∃ t, exec .rsr { demo with osOn := false } = .next t ∧ t.osOn = true :=
  ⟨by decide, next_of (test := fun t => t.osOn) (by decide)⟩

theorem witness_CrmSelectsRunMode : 2 ≤ (2 : BitVec 24).toNat ∧ 2 ≤ (0xFFFFFF : BitVec 24).toNat := by decide

/-- The default operating system, one of the environment, and none after KILL. -/
theorem witness_WakeCallsTheHandler :
    (demo.osOn = true ∧ demo.params.wakeHandler = .recording) ∧
      (State.osOn { demo with params := { Config.params with wakeHandler := .environment } } = true ∧
        (State.params { demo with params := { Config.params with wakeHandler := .environment } }).wakeHandler =
          .environment) ∧
      State.osOn { demo with osOn := false } = false := by decide

/-! ### Operand writes (`OperandWrite`): refused, out of SP's range, written; for SP at the largest value, MEM_MAX -/

theorem witness_OperandWrite_refused : Reg.pc.writeProtected = true ∧ Reg.zero.writeProtected = true ∧
    demo.protectOn = true := by decide

theorem witness_OperandWrite_written : r1.writeProtected = false ∧ (r1 = .sp → (0xFFFFFFFF : Word).toNat ≤ demo.params.memMax) ∧
    Reg.sp.writeProtected = false ∧ (Reg.sp = .sp → (1023 : Word).toNat ≤ demo.params.memMax) ∧
    Reg.stat.writeProtected = false := by decide

/-- For each of two values v: it is out of SP's range in the first case and the largest in range in the second. -/
def Range (low high : Word) : Prop := Config.params.memMax < high.toNat ∧ low.toNat = Config.params.memMax

theorem witness_SetAndCopy : Range ((0x03FF : BitVec 16).signExtend 32) ((0x8000 : BitVec 16).signExtend 32) ∧
    Range ((0x03FF : BitVec 16).setWidth 32) ((0x0400 : BitVec 16).setWidth 32) ∧
    Range ((two 0 1023).operand .y r2) ((two 0 1024).operand .y r2) := by unfold Range; decide

theorem witness_MoveClearsItsSource : demo.protectOn = true ∧ Reg.zero.writeProtected = true ∧
    Range ((two 0 1023).operand .y r2) ((two 0 1024).operand .y r2) ∧ r1.writeProtected = false ∧ r1 ≠ r2 ∧
    r2.writeProtected = false := by unfold Range; decide

theorem witness_AddAndSubtract :
    Range ((two 1000 23).operand .y r1 + (two 1000 23).operand .z r2)
        ((two 1000 24).operand .y r1 + (two 1000 24).operand .z r2) ∧
      Range ((two 1024 0).operand .y r1 + (0xFF : BitVec 8).signExtend 32)
        ((two 0 0).operand .y r1 + (0xFF : BitVec 8).signExtend 32) ∧
      Range ((two 768 0).operand .y r1 + (0xFF : BitVec 8).setWidth 32)
        ((two 769 0).operand .y r1 + (0xFF : BitVec 8).setWidth 32) ∧
      Range ((two 1024 1).operand .y r1 - (two 1024 1).operand .z r2)
        ((two 0 1).operand .y r1 - (two 0 1).operand .z r2) ∧
      Range ((two 1022 0).operand .y r1 - (0xFF : BitVec 8).signExtend 32)
        ((two 1023 0).operand .y r1 - (0xFF : BitVec 8).signExtend 32) ∧
      Range ((two 1024 0).operand .y r1 - (1 : BitVec 8).setWidth 32)
        ((two 0 0).operand .y r1 - (1 : BitVec 8).setWidth 32) := by unfold Range; decide

theorem witness_OneOperandArithmetic :
    Range (if ((two (-1023) 0).operand .y r1).toInt < 0 then -(two (-1023) 0).operand .y r1 else 0)
        (if ((two 0x80000000 0).operand .y r1).toInt < 0 then -(two 0x80000000 0).operand .y r1 else 0) ∧
      Range (-(two (-1023) 0).operand .y r1) (-(two 1 0).operand .y r1) ∧
      Range ((start 0 [(.sp, 1022)] []).operand .x .sp + 1) ((start 0 [(.sp, 1023)] []).operand .x .sp + 1) ∧
      Range ((start 0 [(.sp, 1024)] []).operand .x .sp - 1) ((start 0 [(.sp, 0)] []).operand .x .sp - 1) := by
  unfold Range; decide

theorem witness_Multiply : Range ((two 93 11).operand .y r1 * (two 93 11).operand .z r2)
    ((two 32 32).operand .y r1 * (two 32 32).operand .z r2) := by unfold Range; decide

/-- A divisor of zero and one that is not, the one overflow among them. -/
theorem witness_DivideIntoHiAndLo : (two 10 0).operand .y r2 = 0 ∧ (two 10 3).operand .y r2 ≠ 0 ∧
    (two 0x80000000 0xFFFFFFFF).operand .y r2 ≠ 0 ∧ (0 : BitVec 16).signExtend 32 = 0#32 ∧
    (0xFFFD : BitVec 16).signExtend 32 ≠ 0#32 ∧ (0xFFFF : BitVec 16).setWidth 32 ≠ 0#32 := by decide

theorem witness_DivideDirectAndRemainder :
    (Reg.zero.writeProtected = true ∧ demo.protectOn = true) ∧
      (r1.writeProtected = false ∧ (two 10 0).operand .z r2 = 0) ∧ (two 10 3).operand .z r2 ≠ 0 ∧
      Range (BitVec.ofInt 32 (((two 2047 2).operand .y r1).toInt.tdiv ((two 2047 2).operand .z r2).toInt))
        (BitVec.ofInt 32 (((two 1 0xFFFFFFFF).operand .y r1).toInt.tdiv ((two 1 0xFFFFFFFF).operand .z r2).toInt)) ∧
      Range ((two 1023 2000).operand .y r1 % (two 1023 2000).operand .z r2)
        ((two 1024 2000).operand .y r1 % (two 1024 2000).operand .z r2) ∧
      (two 10 3).params.modWritesHiLo = false ∧
      Params.modWritesHiLo { (two 10 3).params with modWritesHiLo := true } = true := by unfold Range; decide

/-- `MOD HI R1 R2` under `MOD_WRITES_HILO`: X is HI, which is not write-protected. -/
theorem witness_DivideDirectAndRemainder_hi :
    (Reg.hi.writeProtected = false ∧ (two 10 3).operand .z r2 ≠ 0) ∧
      holdsNext (exec (.mod 0x3C 1 2) { two 10 3 with params := { Config.params with modWritesHiLo := true } })
        (fun t => t.hi == 1 && t.lo == 1) = true := by decide

theorem witness_BitwiseLogic :
    Range ((two 0xFFFF 1023).operand .y r1 &&& (two 0xFFFF 1023).operand .z r2)
        ((two 0xFFFF 1024).operand .y r1 &&& (two 0xFFFF 1024).operand .z r2) ∧
      Range ((two 1000 23).operand .y r1 ||| (two 1000 23).operand .z r2)
        ((two 1024 23).operand .y r1 ||| (two 1024 23).operand .z r2) ∧
      Range ((two 768 0).operand .y r1 ||| (0xFF : BitVec 8).setWidth 32)
        ((two 1024 0).operand .y r1 ||| (0xFF : BitVec 8).setWidth 32) ∧
      Range ((two 1000 23).operand .y r1 ^^^ (two 1000 23).operand .z r2)
        ((two 1024 23).operand .y r1 ^^^ (two 1024 23).operand .z r2) ∧
      Range ((two 768 0).operand .y r1 ^^^ (0xFF : BitVec 8).setWidth 32)
        ((two 1024 0).operand .y r1 ^^^ (0xFF : BitVec 8).setWidth 32) ∧
      Range (~~~(two 0xFFFFFC00 0).operand .y r1) (~~~(two 0 0).operand .y r1) ∧
      Range (~~~((two 0xFFFFFC00 0xFFFFFFFF).operand .y r1 &&& (two 0xFFFFFC00 0xFFFFFFFF).operand .z r2))
        (~~~((two 0 0).operand .y r1 &&& (two 0 0).operand .z r2)) ∧
      Range (~~~((two 0xFFFFFC00 0).operand .y r1 ||| (two 0xFFFFFC00 0).operand .z r2))
        (~~~((two 0 0).operand .y r1 ||| (two 0 0).operand .z r2)) ∧
      Range (~~~((two 0xFFFFFC00 0).operand .y r1 ||| (0 : BitVec 8).setWidth 32))
        (~~~((two 0 0).operand .y r1 ||| (0xFF : BitVec 8).setWidth 32)) := by unfold Range; decide

/-- The values of ANDI, NOTI and NANDI, which never or always lie in SP's range: 255 at most, and 0xFFFF0000 at least. -/
theorem witness_BitwiseLogic_immediates :
    (Reg.sp = .sp → ((two 0xFFFFFFFF 0).operand .y r1 &&& (0xFF : BitVec 8).setWidth 32).toNat ≤ Config.params.memMax) ∧
      Config.params.memMax < (~~~((0xFFFF : BitVec 16).setWidth 32) : Word).toNat ∧
      Config.params.memMax < (~~~((two 0xFFFFFFFF 0).operand .y r1 &&& (0xFF : BitVec 8).setWidth 32)).toNat := by
  decide

theorem witness_ShiftAndRotate :
    Range ((two 1023 0).operand .y r1 <<< ((two 1023 0).operand .z r2).toNat)
        ((two 1 10).operand .y r1 <<< ((two 1 10).operand .z r2).toNat) ∧
      Range ((two 1023 0).operand .y r1 <<< (0 : BitVec 8).toNat) ((two 1 0).operand .y r1 <<< (31 : BitVec 8).toNat) ∧
      Range ((two 2047 1).operand .y r1 >>> ((two 2047 1).operand .z r2).toNat)
        ((two 2048 1).operand .y r1 >>> ((two 2048 1).operand .z r2).toNat) ∧
      Range ((two 2047 0).operand .y r1 >>> (1 : BitVec 8).toNat) ((two 2048 0).operand .y r1 >>> (1 : BitVec 8).toNat) ∧
      Range (((two 2047 1).operand .y r1).sshiftRight ((two 2047 1).operand .z r2).toNat)
        (((two 0x80000000 255).operand .y r1).sshiftRight ((two 0x80000000 255).operand .z r2).toNat) ∧
      Range ((two 1023 0).operand .y r1 <<< (((two 1023 32).operand .z r2).toNat % 32)) ((two 1024 0).operand .y r1) := by
  unfold Range; decide

/-- The conditions of the six branches, met and not met. -/
theorem witness_ConditionalBranches :
    ((two 0 0).cmp.toInt = 0 ∧ ¬ (start 0 [(.cmp, 1)] []).cmp.toInt = 0) ∧
      ((start 0 [(.cmp, 0xFFFFFFFF)] []).cmp.toInt < 0 ∧ ¬ (two 0 0).cmp.toInt < 0) ∧
      ((two 0 0).cmp.toInt ≤ 0 ∧ ¬ (start 0 [(.cmp, 1)] []).cmp.toInt ≤ 0) ∧
      ((start 0 [(.cmp, 1)] []).cmp.toInt > 0 ∧ ¬ (two 0 0).cmp.toInt > 0) ∧
      ((two 0 0).cmp.toInt ≥ 0 ∧ ¬ (start 0 [(.cmp, 0x80000000)] []).cmp.toInt ≥ 0) := by decide

/-! ### Loads, stores, the stack -/

/-- R1 = 1020, the address of the memory's last word, which holds 80 81 82 83. -/
def loading : State := start 0 [(.gpr 0, 1020), (.gpr 2, 0xAABBCCDD)] [(1020, [0x80, 0x81, 0x82, 0x83])]

/-- `LHI R3 R1 2`, the last half of the memory, and `LW R3 R1 ZERO`, its last word; the same into SP, out of range. -/
theorem witness_LoadsFromMemory :
    LoadForm (wordOfBytes 0x2A r3.number r1.number 2) (.lhi r3.number r1.number 2) r3
        (fun s => effectiveAddress (s.operand .y r1) (sext (2 : BitVec 8))) .half ∧
      loading.busPorts = loading.params.enumeratePorts ∧ loading.busOn = true ∧
      (effectiveAddress (loading.operand .y r1) (sext (2 : BitVec 8))).toNat + Width.half.bytes ≤ loading.params.memSize ∧
      Merged (loading.operand .x r3) .half (fun j => Memory.read loading.mem (1022 + j)) 0xAABB8283 ∧
      Merged (loading.operand .x .sp) .word (fun j => Memory.read loading.mem (1020 + j)) 0x80818283 ∧
      Config.params.memMax < (0x80818283 : Word).toNat := by
  refine ⟨.lhi r3 r1 2, by decide, by decide, by decide, ?_, ?_, by decide⟩ <;> unfold Merged <;> decide

/-- The count byte at -1 and the last byte of the table at -2306; a word of which the last byte is that at -2306. -/
theorem witness_LoadsFromBusTable :
    loading.busOn = true ∧ (-1 : Word).toInt < 0 ∧
      loading.TableBytes (-(-1 : Word).toInt).toNat .byte (fun j => tableByte loading.busPorts (1 + j)) ∧
      Merged 0xAABBCCDD .byte (fun j => tableByte loading.busPorts (1 + j)) 0xAABBCC03 ∧
      loading.TableBytes (-(-2306 : Word).toInt).toNat .byte (fun j => tableByte loading.busPorts (2306 + j)) ∧
      loading.TableBytes (-(-2303 : Word).toInt).toNat .word (fun j => tableByte loading.busPorts (2303 + j)) := by
  refine ⟨by decide, by decide, ⟨by decide, by decide, fun _ => rfl⟩, ?_, ⟨by decide, by decide, fun _ => rfl⟩,
    ⟨by decide, by decide, fun _ => rfl⟩⟩
  unfold Merged; decide

/-- `ascending`: a word from -4 and one from -2306; `fault`: one byte. -/
theorem witness_LoadsFromBusTable_switches :
    State.TableBytes { loading with params := { Config.params with negAccess := .ascending } } 4 .word
        (fun j => tableByte loading.busPorts (4 - j)) ∧
      State.TableBytes { loading with params := { Config.params with negAccess := .ascending } } 2306 .word
        (fun j => tableByte loading.busPorts (2306 - j)) ∧
      State.TableBytes { loading with params := { Config.params with negAccess := .fault } } 2306 .byte
        (fun j => tableByte loading.busPorts (2306 + j)) :=
  ⟨⟨by decide, by decide, fun _ => rfl⟩, ⟨by decide, by decide, fun _ => rfl⟩,
    ⟨by decide, by decide, rfl, fun _ => rfl⟩⟩

/-- The terminal's first byte and the keyboard's last word. -/
theorem witness_LoadsFromDevices :
    loading.Inv ∧ loading.busOn = true ∧ ⟨1, 1024, 64⟩ ∈ loading.busPorts ∧ ⟨2, 1088, 64⟩ ∈ loading.busPorts ∧
      (1 : Byte) ≠ memoryType ∧ (2 : Byte) ≠ memoryType ∧ 1024 ≤ (1024 : Word).toNat ∧
      (1024 : Word).toNat + Width.byte.bytes ≤ 1024 + 64 ∧ (1148 : Word).toNat + Width.word.bytes ≤ 1088 + 64 :=
  ⟨inv_of (by decide), by decide, by decide, by decide, by decide, by decide, by decide, by decide, by decide⟩

/-- Across the end of the memory, behind the last port, below the table, and across its end. -/
theorem witness_UnservedLoadsAreReported :
    loading.busOn = true ∧ r3.writeProtected = false ∧ loading.CannotRead 1023 .half ∧ loading.CannotRead 1152 .byte ∧
      loading.CannotRead (-2307) .byte ∧ loading.CannotRead (-2306) .half := by
  refine ⟨by decide, by decide, .inl ⟨by decide, ?_⟩, .inl ⟨by decide, ?_⟩, .inr ⟨by decide, fun _ h => ?_⟩,
    .inr ⟨by decide, fun _ h => ?_⟩⟩
  · unfold State.NoPort; decide
  · unfold State.NoPort; decide
  · exact absurd h.2.1 (by decide)
  · exact absurd h.2.1 (by decide)

/-- `SW R3 R1 ZERO` at the memory's last word. -/
theorem witness_StoresToMemory :
    StoreForm (wordOfBytes 0x34 r3.number r1.number Reg.zero.number) (.sw r3.number r1.number Reg.zero.number) r3
        (fun s => effectiveAddress (s.operand .y r1) (s.operand .z .zero)) .word ∧
      loading.Inv ∧ loading.busOn = true ∧
      (effectiveAddress (loading.operand .y r1) (loading.operand .z .zero)).toNat + Width.word.bytes ≤
        loading.params.memSize :=
  ⟨.sw r3 r1 .zero, inv_of (by decide), by decide, by decide⟩

theorem witness_StoresToDevices :
    loading.Inv ∧ loading.busOn = true ∧ ⟨2, 1088, 64⟩ ∈ loading.busPorts ∧ (2 : Byte) ≠ memoryType ∧
      1088 ≤ (1150 : Word).toNat ∧ (1150 : Word).toNat + Width.half.bytes ≤ 1088 + 64 ∧
      Merged 0 .half (fun j => byteOf 0xAABBCCDD (Width.half.bytes - 1 - j)) 0xCCDD := by
  refine ⟨inv_of (by decide), by decide, by decide, by decide, by decide, by decide, ?_⟩
  unfold Merged; decide

theorem witness_UnservedStoresAreReported :
    loading.busOn = true ∧ loading.CannotWrite (-1) .byte ∧ loading.CannotWrite 0x80000000 .byte ∧
      loading.CannotWrite 1021 .word ∧ loading.CannotWrite 1152 .byte := by
  refine ⟨by decide, .inl (by decide), .inl (by decide), .inr ?_, .inr ?_⟩ <;> unfold State.NoPort <;> decide

/-- `SW R3 R1 ZERO` puts the word of INC R1 at the memory's last word. -/
theorem witness_StoredWordsAreFetched :
    State.Inv { loading with gpr := loading.gpr.set 2 0x81010000 } ∧
      (∃ t, exec (.sw 3 1 0x3F) { loading with gpr := loading.gpr.set 2 0x81010000 } = .next t ∧
        (decide (t.power = .running) && !t.zombie) = true) ∧
      decode (State.operand { loading with gpr := loading.gpr.set 2 0x81010000 } .x r3) = .ok (.inc 1) :=
  ⟨inv_of (by decide), next_of (test := fun t => decide (t.power = .running) && !t.zombie) (by decide), by decide⟩

/-- SP below the width, and equal to it. -/
theorem witness_PushesStoreBelow :
    State.Inv { demo with sp := 3 } ∧ State.Inv { demo with sp := 4 } ∧ demo.busOn = true ∧ demo.protectOn = true ∧
      State.sp { demo with sp := 3 } < 4 ∧ Width.word.bytes ≤ (State.sp { demo with sp := 4 }).toNat :=
  ⟨inv_of (by decide), inv_of (by decide), by decide, by decide, by decide, by decide⟩

/-- SP = 1000, with four bytes on the stack. -/
def topped (bytes : List Byte) : State := start 0 [(.sp, 1000)] [(1000, bytes)]

/-- A protected X; SP whose word ends behind the memory, at its end, before it; a word that POP SP cannot take, one
that it can but not raise, and the largest that it can. -/
theorem witness_PopsLoadFromTop :
    (demo.Inv ∧ demo.busOn = true ∧ demo.protectOn = true ∧ Reg.lin.writeProtected = true) ∧
      (State.Inv { demo with sp := 1021 } ∧ demo.params.memSize < (1021 : Word).toNat + Width.word.bytes) ∧
      (State.Inv { demo with sp := 1020 } ∧ (1020 : Word).toNat + Width.word.bytes = demo.params.memSize ∧
        Merged (demo.operand .x r1) .word (fun j => Memory.read demo.mem ((1020 : Word).toNat + j)) 0) ∧
      ((1000 : Word).toNat + Width.word.bytes < demo.params.memSize ∧
        Merged (demo.operand .x r1) .word (fun j => Memory.read demo.mem ((1000 : Word).toNat + j)) 12) ∧
      ((topped [0, 0, 4, 0]).Inv ∧ (topped [0, 0, 4, 0]).params.memMax < (1024 : Word).toNat ∧
        Merged ((topped [0, 0, 4, 0]).operand .x .sp) .word
          (fun j => Memory.read (topped [0, 0, 4, 0]).mem ((topped [0, 0, 4, 0]).sp.toNat + j)) 1024) ∧
      ((1020 : Word).toNat ≤ Config.params.memMax ∧ Config.params.memMax < (1020 : Word).toNat + Width.word.bytes ∧
        Merged ((topped [0, 0, 3, 0xFC]).operand .x .sp) .word
          (fun j => Memory.read (topped [0, 0, 3, 0xFC]).mem ((topped [0, 0, 3, 0xFC]).sp.toNat + j)) 1020) ∧
      ((1019 : Word).toNat + Width.word.bytes ≤ Config.params.memMax ∧
        Merged ((topped [0, 0, 3, 0xFB]).operand .x .sp) .word
          (fun j => Memory.read (topped [0, 0, 3, 0xFB]).mem ((topped [0, 0, 3, 0xFB]).sp.toNat + j)) 1019) := by
  refine ⟨⟨demo_inv, by decide, by decide, by decide⟩, ⟨inv_of (by decide), by decide⟩,
    ⟨inv_of (by decide), by decide, ?_⟩, ⟨by decide, ?_⟩, ⟨inv_of (by decide), by decide, ?_⟩, ⟨by decide, by decide, ?_⟩,
    ⟨by decide, ?_⟩⟩ <;> unfold Merged <;> decide

theorem witness_PopAfterPushReturnsTheWord :
    demo.Inv ∧ demo.busOn = true ∧ 4 ≤ demo.sp.toNat ∧ r1 ≠ .sp ∧ r2 ≠ .sp ∧ r2.writeProtected = false :=
  ⟨demo_inv, by decide, by decide, by decide, by decide, by decide⟩

theorem witness_CallAndRet :
    (State.Inv { demo with sp := 3 } ∧ (3 : Word).toNat < 4 ∧ demo.protectOn = true) ∧
      (State.Inv { demo with sp := 4 } ∧ 4 ≤ (4 : Word).toNat) ∧
      (State.Inv { demo with sp := 1021 } ∧ demo.params.memSize < (1021 : Word).toNat + 4) ∧
      (State.Inv { demo with sp := 1020 } ∧ (1020 : Word).toNat + 4 = demo.params.memSize) ∧
      (State.Inv { demo with sp := 1019 } ∧ (1019 : Word).toNat + 4 < demo.params.memSize) ∧ demo.busOn = true ∧
      demo.params.callRet = .stackAbsolute :=
  ⟨⟨inv_of (by decide), by decide, by decide⟩, ⟨inv_of (by decide), by decide⟩, ⟨inv_of (by decide), by decide⟩,
    ⟨inv_of (by decide), by decide⟩, ⟨inv_of (by decide), by decide⟩, by decide, by decide⟩

/-- PC at -1 and at the last address whose word lies in the table, and, read upward, at -4; PC at the first byte of the
terminal and at the keyboard's last word. -/
theorem witness_FetchesBeyondMemory :
    ((-1 : Word).toInt < 0 ∧ (-2303 : Word).toInt < 0 ∧ (-4 : Word).toInt < 0) ∧
      State.TableBytes { demo with pc := -1 } 1 .word (fun j => tableByte demo.busPorts (1 + j)) ∧
      State.TableBytes { demo with pc := -2303 } 2303 .word (fun j => tableByte demo.busPorts (2303 + j)) ∧
      State.TableBytes { demo with pc := -4, params := { Config.params with negAccess := .ascending } } 4 .word
        (fun j => tableByte demo.busPorts (4 - j)) ∧
      (State.Sound { demo with pc := -1 } ∧ State.Sound { demo with pc := 1148 } ∧ demo.power = .running) ∧
      (⟨1, 1024, 64⟩ ∈ demo.busPorts ∧ ⟨2, 1088, 64⟩ ∈ demo.busPorts ∧ (1 : Byte) ≠ memoryType ∧
        (2 : Byte) ≠ memoryType ∧ (1024 : Word).toNat + 4 ≤ 1024 + 64 ∧ (1148 : Word).toNat + 4 ≤ 1088 + 64) :=
  ⟨by decide, ⟨by decide, by decide, fun _ => rfl⟩, ⟨by decide, by decide, fun _ => rfl⟩,
    ⟨by decide, by decide, fun _ => rfl⟩,
    ⟨(inv_of (by decide)).toSound, (inv_of (by decide)).toSound, by decide⟩, by decide⟩

/-- A fetch at -1 takes the first bytes of the table: the count 3, and zeros. -/
theorem test_fetch_table : holdsNext (step { demo with pc := -1 })
    (fun t => t.ir == 0x03000000 && t.pc == 3 && t.sysmode == 0) = true := by decide

end Sys2Proof.Tests
end

section
/-! PROOFS. The registers after power-up (10_state.md R45, R48, R49). -/

namespace Sys2Proof

/-- MEM_MAX lies below 2^31, so it fits a register as a number that is not negative (R72). -/
theorem Params.memMax_lt (p : Params) : p.memMax < 2 ^ 31 := by
  have hsize : p.memSize ≤ 2 ^ 31 := p.memSize_le
  unfold Params.memMax
  omega

end Sys2Proof

namespace Sys2Proof.Machine

section

variable (p : Params) (image : Memory)

@[simp] theorem State.content_powerUp_gpr (i : Fin 32) : (State.powerUp p image).content (.gpr i) = 0 :=
  Vector.getElem_replicate i.isLt

@[simp] theorem State.content_powerUp_pc : (State.powerUp p image).content .pc = 0 := rfl

/-- The pattern in SP is MEM_MAX itself: the 32 bits cut nothing off. -/
@[simp] theorem State.toNat_content_powerUp_sp : ((State.powerUp p image).content .sp).toNat = p.memMax :=
  (BitVec.toNat_ofNat p.memMax 32).trans (Nat.mod_eq_of_lt (p.memMax_lt.trans (by decide)))

end

/-- Settles O9: the general registers, PC and ZERO are set to zero, and SP to MEM_MAX, which is MEM_SIZE - 1 by
definition and fits into the register for every parameter set. -/
theorem powerUpRegisters : Obligations.PowerUpRegisters := by
  intro p image _
  have hsp : ((State.powerUp p image).content .sp).toNat = p.memSize - 1 := State.toNat_content_powerUp_sp p image
  exact ⟨State.content_powerUp_gpr p image, State.content_powerUp_pc p image, hsp, State.content_zero _⟩

end Sys2Proof.Machine
end

section
/-! PROOFS. The control instructions NOP, RST and SOCL, and KILL (40_control.md R130, R131, R137; 48_system.md R331). -/

namespace Sys2Proof

/-- A word of format 000 decodes by its opcode alone, whatever its three unused bytes hold (R103, R116). -/
theorem decode_format000 {op : Byte} {i : Instr}
    (hrow : opcodeRows.find? (fun row => row.1 == op) = some (op, fun _ => i)) (unused : BitVec 24) :
    decode (op ++ unused) = .ok i :=
  decode_append24 hrow fun _ _ _ _ => rfl

end Sys2Proof

namespace Sys2Proof.Machine

/-! ## RST -/

@[simp] theorem State.content_clearGpr_gpr (s : State) (i : Fin 32) : s.clearGpr.content (.gpr i) = 0 :=
  Vector.getElem_replicate i.isLt

/-- RST reaches no special register. -/
theorem State.content_clearGpr_of_ne_gpr (s : State) {r : Reg} (h : ∀ i, r ≠ .gpr i) :
    s.clearGpr.content r = s.content r := by
  cases r with
  | gpr i => exact absurd rfl (h i)
  | _ => rfl

theorem State.sameMachine_clearGpr (s : State) : s.SameMachine s.clearGpr :=
  ⟨rfl, ⟨rfl, rfl, rfl, rfl, rfl, rfl⟩, ⟨rfl, rfl, rfl, rfl⟩, rfl⟩

/-- Settles O29: each part is read off the instruction's one row of the opcode map and its meaning. -/
theorem nopAndRst : Obligations.NopAndRst := by
  refine ⟨fun unused => ⟨decode_format000 rfl unused, decode_format000 rfl unused⟩, fun s => rfl, fun s => ?_⟩
  exact ⟨s.clearGpr, rfl, s.content_clearGpr_gpr, fun r hr => s.content_clearGpr_of_ne_gpr hr, fun b => rfl,
    s.sameMachine_clearGpr⟩

/-! ## What leaves the mode flags alone -/

section

variable {s t : State}

theorem AfterRead.sameModes (h : AfterRead s t) : s.SameModes t := by
  cases h with
  | quiet => exact .rfl' s
  | device e => exact ⟨rfl, rfl, rfl, rfl, rfl, rfl⟩

theorem AfterWrite.sameModes (h : AfterWrite s t) : s.SameModes t := by
  cases h with
  | memory => exact ⟨rfl, rfl, rfl, rfl, rfl, rfl⟩
  | device e => exact ⟨rfl, rfl, rfl, rfl, rfl, rfl⟩

/-- Of all the effects only those of RSR, of KILL and of an operating system of the environment reach `osOn` (R34). -/
theorem Effect.osOn_eq {i : Instr} (h : Effect s i t) (hcall : ¬ s.CallsEnvironment i) (hrsr : i ≠ .rsr)
    (hkill : i ≠ .kill) : t.osOn = s.osOn := by
  cases h with
  | wrote X v hr => simpa using hr.sameModes.osOn
  | popped X v w hr => simpa using hr.sameModes.osOn
  | stored _ hw => exact hw.sameModes.osOn
  | pushed v _ _ hw => exact hw.sameModes.osOn
  | called n v pc _ _ hw => exact hw.sameModes.osOn
  | returned v pc _ hr => exact hr.sameModes.osOn
  | restarted hi => exact absurd hi hrsr
  | killed hi => exact absurd hi hkill
  | handedBack n _ hc => exact absurd hc hcall
  | _ => simp

end

/-! ## WAKE after KILL -/

theorem exec_wake_of_osOff {s : State} (h : s.osOn = false) (n : BitVec 24) : exec (.wake n) s = .next s := by
  have hwake : exec (.wake n) s = execWakeWith (wakeHandlerOf s.params.wakeHandler) n s := rfl
  simp [hwake, execWakeWith, h]

/-- While `osOn` is false a WAKE calls nothing, so no operating system can set it again. -/
theorem not_callsEnvironment_of_osOff {s : State} (h : s.osOn = false) (i : Instr) : ¬ s.CallsEnvironment i := by
  rintro ⟨_, hon, _⟩
  simp [h] at hon

/-- Once false, `osOn` is set again by RSR alone: the WAKE that could hand the machine to an operating system of the
environment does nothing, and KILL clears the flag. -/
theorem eq_rsr_of_osOn_set {i : Instr} {s t : State} (h : exec i s = .next t) (hoff : s.osOn = false)
    (hon : t.osOn = true) : i = .rsr := by
  by_contra hrsr
  have hkill : i ≠ .kill := by
    rintro rfl
    cases h
    cases hon
  have hsame : t.osOn = s.osOn := (exec_next h).osOn_eq (not_callsEnvironment_of_osOff hoff i) hrsr hkill
  simp [hsame, hoff] at hon

/-- Settles O30: the flags by the instructions' meanings, and the last part by the effects an instruction can have. -/
theorem soclAndKill : Obligations.SoclAndKill :=
  ⟨fun unused => ⟨decode_format000 rfl unused, decode_format000 rfl unused⟩, fun _ => rfl, fun _ => rfl,
    fun _ n hoff => exec_wake_of_osOff hoff n, fun _ _ _ => eq_rsr_of_osOn_set⟩

end Sys2Proof.Machine
end

section
/-! PROOFS. The conditional branches (46_branch.md R300 to R306). -/

namespace Sys2Proof.Machine

open Sys2Proof.Claims

/-! ## What each condition says of the signed CMP (R300 (d)) -/

section

variable (cmp : Word)

theorem condEqual_iff : condEqual cmp = true ↔ cmp.toInt = 0 := decide_eq_true_iff

theorem condNotEqual_iff : condNotEqual cmp = true ↔ cmp.toInt ≠ 0 := decide_eq_true_iff

theorem condLess_iff : condLess cmp = true ↔ cmp.toInt < 0 := decide_eq_true_iff

theorem condLessEqual_iff : condLessEqual cmp = true ↔ cmp.toInt ≤ 0 := decide_eq_true_iff

theorem condGreater_iff : condGreater cmp = true ↔ cmp.toInt > 0 := decide_eq_true_iff

theorem condGreaterEqual_iff : condGreaterEqual cmp = true ↔ cmp.toInt ≥ 0 := decide_eq_true_iff

end

/-! ## The relative jump, taken and not taken -/

/-- A taken jump by a signed immediate skips that many instructions of four bytes, as PC counts modulo 2^32. -/
theorem jumpIf_taken (s : State) {w : Nat} (n : BitVec w) :
    Completes (jumpIf s true (signed (sext n))) fun t =>
      t.pc = s.pc + 4 * n.signExtend 32 ∧ s.OnlyRegisters t [.pc] := by
  obtain ⟨t, ht, hpc, honly⟩ := jumpIf_spec s true (signed (sext n))
  exact ⟨t, ht, hpc.trans (relativeTarget_signed s.pc (sext n)), honly⟩

theorem jumpIf_not_taken (s : State) (offset : Int) : jumpIf s false offset = .next s := rfl

/-- An instruction is a conditional branch where its opcode's row builds it from the immediate, its meaning is a
relative jump by that immediate, and its test of CMP is the condition. -/
theorem branches_of_jumpIf {op : Byte} {mk : BitVec 24 → Instr} {condition : Int → Prop} {test : Word → Bool}
    (hrow : opcodeRows.find? (fun row => row.1 == op) = some (op, fun f => mk f.n24))
    (hexec : ∀ n s, exec (mk n) s = jumpIf s (test s.cmp) (signed (sext n)))
    (htest : ∀ cmp, test cmp = true ↔ condition cmp.toInt) : Branches op mk condition := by
  refine fun n => ⟨decode_append24 hrow fun _ _ _ _ => rfl, fun s => ⟨fun hmet => ?_, fun hnot => ?_⟩⟩
  · have htaken : test s.cmp = true := (htest s.cmp).mpr hmet
    rw [hexec, htaken]
    exact jumpIf_taken s n
  · have hstays : test s.cmp = false := Bool.eq_false_iff.mpr (mt (htest s.cmp).mp hnot)
    rw [hexec, hstays, jumpIf_not_taken]

/-- Settles O58: each of the six is the relative jump under its own test of CMP. -/
theorem conditionalBranches : Obligations.ConditionalBranches :=
  ⟨branches_of_jumpIf rfl (fun _ _ => rfl) condEqual_iff,
    branches_of_jumpIf rfl (fun _ _ => rfl) condNotEqual_iff,
    branches_of_jumpIf rfl (fun _ _ => rfl) condLess_iff,
    branches_of_jumpIf rfl (fun _ _ => rfl) condLessEqual_iff,
    branches_of_jumpIf rfl (fun _ _ => rfl) condGreater_iff,
    branches_of_jumpIf rfl (fun _ _ => rfl) condGreaterEqual_iff⟩

end Sys2Proof.Machine
end

section
/-! PROOFS. The decoder against the encoder, the unassigned opcodes and the names of the registers (30_encoding.md
sections 1, 2 and 4; 10_state.md sections 1, 2 and 7). -/

namespace Sys2Proof

/-! ## Decoding a word that the encoder has made -/

/-- Every instruction has a row of the opcode map that makes it from its own word. -/
theorem encode_row : ∀ i : Instr, Laws.Opcode.Statement i
  | .nop => Laws.Opcode.nop
  | .rst => Laws.Opcode.rst
  | .crm n => Laws.Opcode.crm n
  | .csm n => Laws.Opcode.csm n
  | .die => Laws.Opcode.die
  | .rsr => Laws.Opcode.rsr
  | .autsm => Laws.Opcode.autsm
  | .socl => Laws.Opcode.socl
  | .hate => Laws.Opcode.hate
  | .trst => Laws.Opcode.trst
  | .zmb => Laws.Opcode.zmb
  | .aliv => Laws.Opcode.aliv
  | .set x n => Laws.Opcode.set x n
  | .setu x n => Laws.Opcode.setu x n
  | .copy x y => Laws.Opcode.copy x y
  | .move x y => Laws.Opcode.move x y
  | .lb x y z => Laws.Opcode.lb x y z
  | .lbu x y z => Laws.Opcode.lbu x y z
  | .lh x y z => Laws.Opcode.lh x y z
  | .lhu x y z => Laws.Opcode.lhu x y z
  | .lw x y z => Laws.Opcode.lw x y z
  | .lwu x y z => Laws.Opcode.lwu x y z
  | .lbi x y n => Laws.Opcode.lbi x y n
  | .lbui x y n => Laws.Opcode.lbui x y n
  | .lhi x y n => Laws.Opcode.lhi x y n
  | .lhui x y n => Laws.Opcode.lhui x y n
  | .lwi x y n => Laws.Opcode.lwi x y n
  | .lwui x y n => Laws.Opcode.lwui x y n
  | .sb x y z => Laws.Opcode.sb x y z
  | .sbu x y z => Laws.Opcode.sbu x y z
  | .sh x y z => Laws.Opcode.sh x y z
  | .shu x y z => Laws.Opcode.shu x y z
  | .sw x y z => Laws.Opcode.sw x y z
  | .swu x y z => Laws.Opcode.swu x y z
  | .sbi x y n => Laws.Opcode.sbi x y n
  | .sbui x y n => Laws.Opcode.sbui x y n
  | .shi x y n => Laws.Opcode.shi x y n
  | .shui x y n => Laws.Opcode.shui x y n
  | .swi x y n => Laws.Opcode.swi x y n
  | .swui x y n => Laws.Opcode.swui x y n
  | .pushb x => Laws.Opcode.pushb x
  | .pushh x => Laws.Opcode.pushh x
  | .push x => Laws.Opcode.push x
  | .popb x => Laws.Opcode.popb x
  | .poph x => Laws.Opcode.poph x
  | .pop x => Laws.Opcode.pop x
  | .add x y z => Laws.Opcode.add x y z
  | .addu x y z => Laws.Opcode.addu x y z
  | .addi x y n => Laws.Opcode.addi x y n
  | .addiu x y n => Laws.Opcode.addiu x y n
  | .sub x y z => Laws.Opcode.sub x y z
  | .subu x y z => Laws.Opcode.subu x y z
  | .subi x y n => Laws.Opcode.subi x y n
  | .subiu x y n => Laws.Opcode.subiu x y n
  | .mul x y => Laws.Opcode.mul x y
  | .mulu x y => Laws.Opcode.mulu x y
  | .muli x n => Laws.Opcode.muli x n
  | .muliu x n => Laws.Opcode.muliu x n
  | .muld x y z => Laws.Opcode.muld x y z
  | .div x y => Laws.Opcode.div x y
  | .divu x y => Laws.Opcode.divu x y
  | .divi x n => Laws.Opcode.divi x n
  | .diviu x n => Laws.Opcode.diviu x n
  | .divd x y z => Laws.Opcode.divd x y z
  | .mod x y z => Laws.Opcode.mod x y z
  | .modi x y n => Laws.Opcode.modi x y n
  | .abs x y => Laws.Opcode.abs x y
  | .neg x y => Laws.Opcode.neg x y
  | .inc x => Laws.Opcode.inc x
  | .dec x => Laws.Opcode.dec x
  | .and x y z => Laws.Opcode.and x y z
  | .andi x y n => Laws.Opcode.andi x y n
  | .or x y z => Laws.Opcode.or x y z
  | .ori x y n => Laws.Opcode.ori x y n
  | .xor x y z => Laws.Opcode.xor x y z
  | .xori x y n => Laws.Opcode.xori x y n
  | .not x y => Laws.Opcode.not x y
  | .noti x n => Laws.Opcode.noti x n
  | .nand x y z => Laws.Opcode.nand x y z
  | .nandi x y n => Laws.Opcode.nandi x y n
  | .nor x y z => Laws.Opcode.nor x y z
  | .nori x y n => Laws.Opcode.nori x y n
  | .shl x y z => Laws.Opcode.shl x y z
  | .shli x y n => Laws.Opcode.shli x y n
  | .shr x y z => Laws.Opcode.shr x y z
  | .shri x y n => Laws.Opcode.shri x y n
  | .shra x y z => Laws.Opcode.shra x y z
  | .shrai x y n => Laws.Opcode.shrai x y n
  | .rotl x y z => Laws.Opcode.rotl x y z
  | .rotli x y n => Laws.Opcode.rotli x y n
  | .rotr x y z => Laws.Opcode.rotr x y z
  | .rotri x y n => Laws.Opcode.rotri x y n
  | .cmp x y => Laws.Opcode.cmp x y
  | .cmpu x y => Laws.Opcode.cmpu x y
  | .cmpi x n => Laws.Opcode.cmpi x n
  | .cmpiu x n => Laws.Opcode.cmpiu x n
  | .be n => Laws.Opcode.be n
  | .bne n => Laws.Opcode.bne n
  | .bl n => Laws.Opcode.bl n
  | .ble n => Laws.Opcode.ble n
  | .bg n => Laws.Opcode.bg n
  | .bge n => Laws.Opcode.bge n
  | .jmp n => Laws.Opcode.jmp n
  | .jmpr x => Laws.Opcode.jmpr x
  | .go n => Laws.Opcode.go n
  | .call n => Laws.Opcode.call n
  | .ret => Laws.Opcode.ret
  | .wake n => Laws.Opcode.wake n
  | .kill => Laws.Opcode.kill

/-- The row that decodes an instruction's word is the instruction's own: the map has one row for each opcode (R113). -/
theorem decode_encode (i : Instr) : decode (encode i) = .ok i := by
  obtain ⟨row, hmem, hop, hmake⟩ := encode_row i
  rcases decode_cases (encode i) with ⟨row', hmem', hop', hdecode⟩ | ⟨hnone, _⟩
  · have hrow : row' = row := List.inj_on_of_nodup_map opcodeRows_nodup hmem' hmem (hop'.trans hop.symm)
    rw [hdecode, hrow, hmake]
  · exact absurd hop (hnone row hmem)

/-- The bytes of a word at the head of a list decode as the word does (R101). -/
theorem decodeBytes_bytesOfWord (w : Word) (rest : List Byte) :
    decodeBytes (bytesOfWord w ++ rest) = (decode w).map fun i => (i, rest) := by
  simp only [bytesOfWord, List.cons_append, List.nil_append, decodeBytes, wordOfBytes_bytesOfWord]

/-- The opcode table's view of a word's number is what the decoder answers. -/
theorem decodeTableWord_of_ok {w : Word} {i : Instr} (h : decode w = .ok i) : decodeTableWord 32 w.toNat = some i := by
  have hw : BitVec.ofNat 32 (w.toNat % 2 ^ 32) = w := by
    rw [Nat.mod_eq_of_lt w.isLt, BitVec.ofNat_toNat, BitVec.setWidth_eq]
  have hbytes : decodeBytes (bytesOfWord w) = .ok (i, []) := by
    simpa [h, Except.map] using decodeBytes_bytesOfWord w []
  simp only [decodeTableWord, hw, hbytes]

/-- Settles O1: the instruction's own row decodes its word, and the word's bytes put together again are the word. -/
theorem decodeInvertsEncode : Obligations.DecodeInvertsEncode := by
  intro i
  have hword : decode (encode i) = .ok i := decode_encode i
  refine ⟨hword, decodeTableWord_of_ok hword, fun rest => ?_⟩
  rw [encodeBytes, decodeBytes_bytesOfWord, hword]
  rfl

/-! ## The unassigned opcodes -/

/-- The opcode is the number above the 24 low bits (R102). -/
theorem toNat_opcodeOf (w : Word) : (opcodeOf w).toNat = w.toNat / 2 ^ 24 := by
  have := w.isLt
  rw [opcodeOf, BitVec.extractLsb'_toNat, Nat.shiftRight_eq_div_pow]
  omega

/-- A byte is the opcode of no row if and only if one of the listed ranges holds it (R114). -/
theorem not_assigned_iff (op : Byte) : (∀ row ∈ opcodeRows, row.1 ≠ op) ↔
    ∃ range ∈ Claims.unassignedOpcodes, range.1 ≤ op.toNat ∧ op.toNat ≤ range.2 := by
  have all : ∀ k : Fin 256, (∀ row ∈ opcodeRows, row.1 ≠ BitVec.ofFin k) ↔
      ∃ range ∈ Claims.unassignedOpcodes,
        range.1 ≤ (BitVec.ofFin k : Byte).toNat ∧ (BitVec.ofFin k : Byte).toNat ≤ range.2 := by
    decide +kernel
  exact all op.toFin

theorem decode_error_iff (w : Word) : decode w = .error .illegalOpcode ↔ ∀ row ∈ opcodeRows, row.1 ≠ opcodeOf w := by
  rcases decode_cases w with ⟨row, hmem, hop, hdecode⟩ | ⟨hnone, hdecode⟩
  · simp only [hdecode, reduceCtorEq, false_iff]
    exact fun hnone => hnone row hmem hop
  · exact iff_of_true hdecode hnone

/-- The decoder refuses exactly the words with an opcode in one of the listed ranges (R114). -/
theorem decode_error_iff_unassigned (w : Word) : decode w = .error .illegalOpcode ↔
    ∃ range ∈ Claims.unassignedOpcodes, range.1 ≤ w.toNat / 2 ^ 24 ∧ w.toNat / 2 ^ 24 ≤ range.2 := by
  rw [decode_error_iff, not_assigned_iff, toNat_opcodeOf]

/-! ## The names of the registers -/

theorem Reg.ofNumber_eq_some_iff (n : RegNumber) (r : Reg) : Reg.ofNumber n = some r ↔ n = r.number :=
  ⟨fun h => (Reg.number_of_ofNumber h).symm, fun h => h ▸ Reg.ofNumber_number r⟩

/-- The write-protected registers are those whose machine names R349 lists. -/
theorem Reg.writeProtected_iff (r : Reg) : r.writeProtected = true ↔ r.number ∈ Claims.protectedNumbers := by
  cases r with
  | gpr i => revert i; decide
  | _ => decide

theorem Reg.toNat_number_gpr (i : Fin 32) : (Reg.gpr i).number.toNat = i.val + 1 := by
  revert i; decide

/-- Settles O3: the numbers that name a register are the valid ones, each register has its own, and the protected ones
are checked register by register. -/
theorem numbersNameRegisters : Obligations.NumbersNameRegisters := by
  refine ⟨fun n => ?_, fun n => (Reg.isSome_ofNumber n).symm, Reg.ofNumber_eq_some_iff, Reg.toNat_number_gpr, rfl,
    Reg.writeProtected_iff⟩
  rw [Reg.isSome_ofNumber]
  simp [RegNumber.valid]

/-! ## Printed words -/

/-- Settles O4: each of the words is looked up in the opcode map. -/
theorem specWordsDecode : Obligations.SpecWordsDecode := by
  unfold Obligations.SpecWordsDecode
  decide

end Sys2Proof
end

section
/-! PROOFS. What an instruction leaves unchanged, read off the effects it can have: registers, ERR, mode flags, memory
(10_state.md sections 1 and 2; 20_memory.md section 1; 60_exceptions.md sections 2 and 3). -/

namespace Sys2Proof.Machine

/-! ## Registers after a write -/

theorem State.content_setReg_ne (s : State) {r q : Reg} (h : q ≠ r) (v : Word) :
    (s.setReg r v).content q = s.content q := by
  rw [State.content_setReg, if_neg fun hqr => h hqr.1]

/-- The registers that an instruction can write without naming them as a destination. -/
def implicitRegisters : List Reg := [.pc, .sp, .err, .errm, .hi, .lo, .cmp]

/-- Every other register is one of these fields, or ZERO. -/
theorem State.content_eq_of_fields {s t : State} {r : Reg} (hr : r ∉ implicitRegisters)
    (hgpr : t.gpr = s.gpr := by rfl) (hfp : t.fp = s.fp := by rfl) (hlin : t.lin = s.lin := by rfl)
    (hir : t.ir = s.ir := by rfl) (hnin : t.nin = s.nin := by rfl) (hstat : t.stat = s.stat := by rfl) :
    t.content r = s.content r := by
  cases r with
  | gpr i => simp only [State.content, hgpr]
  | fp => exact hfp
  | lin => exact hlin
  | ir => exact hir
  | nin => exact hnin
  | stat => exact hstat
  | zero => rfl
  | _ => exact absurd (by decide) hr

section

variable {s t : State} {i : Instr}

/-! ## Reads and writes on the bus -/

/-- A read on the bus reaches the device trace at most, and only adds to it. -/
theorem AfterRead.eq_trace (h : AfterRead s t) : ∃ calls, t = { s with deviceTrace := s.deviceTrace ++ calls } := by
  cases h with
  | quiet => exact ⟨[], by simp⟩
  | device e => exact ⟨[e], rfl⟩

/-- A write on the bus reaches the memory and the device trace at most, and only adds to the trace. -/
theorem AfterWrite.eq_memory_trace (h : AfterWrite s t) :
    ∃ mem calls, t = { s with mem := mem, deviceTrace := s.deviceTrace ++ calls } := by
  cases h with
  | memory p a bs => exact ⟨Memory.store s.mem a bs, [], by simp⟩
  | device e => exact ⟨s.mem, [e], rfl⟩

theorem AfterRead.content_eq (h : AfterRead s t) (r : Reg) : t.content r = s.content r := by
  obtain ⟨calls, rfl⟩ := h.eq_trace
  cases r <;> rfl

theorem AfterRead.mem_eq (h : AfterRead s t) : t.mem = s.mem := by
  obtain ⟨calls, rfl⟩ := h.eq_trace
  rfl

theorem AfterWrite.content_eq (h : AfterWrite s t) (r : Reg) : t.content r = s.content r := by
  obtain ⟨mem, calls, rfl⟩ := h.eq_memory_trace
  cases r <;> rfl

theorem AfterRead.power_eq (h : AfterRead s t) : t.power = s.power := by
  obtain ⟨calls, rfl⟩ := h.eq_trace
  rfl

theorem AfterWrite.power_eq (h : AfterWrite s t) : t.power = s.power := by
  obtain ⟨mem, calls, rfl⟩ := h.eq_memory_trace
  rfl

/-! ## Registers -/

/-- A register that the machine writes only where it is named keeps its content, where it is write-protected or no
destination of the instruction (R36). -/
theorem Effect.content_eq (h : Effect s i t) (hcall : ¬ s.CallsEnvironment i) (hrsr : i ≠ .rsr) {r : Reg}
    (hr : r ∉ implicitRegisters) (hrst : i = .rst → ∀ k, r ≠ .gpr k)
    (hd : r.writeProtected = true ∨ r.number ∉ i.destinations) : t.content r = s.content r := by
  have hne : ∀ {X : Reg}, X.number ∈ i.destinations → X.writeProtected = false → r ≠ X := by
    rintro X hx hp rfl
    exact hd.elim (fun hw => by simp [hp] at hw) fun hn => hn hx
  cases h with
  | wrote X v hr' hx hp => exact (State.content_setReg_ne _ (hne hx hp) v).trans (hr'.content_eq r)
  | moved X Y v hx hy hpx hpy =>
    exact (State.content_setReg_ne _ (hne hy hpy) 0).trans (State.content_setReg_ne _ (hne hx hpx) v)
  | popped X v w hr' hx hp =>
    exact (State.content_eq_of_fields hr).trans
      ((State.content_setReg_ne _ (hne hx hp) v).trans (hr'.content_eq r))
  | stored _ hw => exact hw.content_eq r
  | pushed v _ _ hw => exact (hw.content_eq r).trans (State.content_eq_of_fields hr)
  | called n v pc _ _ hw =>
    exact (State.content_eq_of_fields hr).trans ((hw.content_eq r).trans (State.content_eq_of_fields hr))
  | returned v pc _ hr' => exact (State.content_eq_of_fields hr).trans (hr'.content_eq r)
  | remainder X v h l hx hp =>
    exact (State.content_setReg_ne _ (hne hx hp) v).trans (State.content_eq_of_fields hr)
  | cleared hi => exact s.content_clearGpr_of_ne_gpr (hrst hi)
  | restarted hi => exact absurd hi hrsr
  | handedBack n _ hc => exact absurd hc hcall
  | _ => exact State.content_eq_of_fields hr

/-- PC is write-protected, so only the instructions that jump, RSR and an operating system of the environment write
it (R25, R36). -/
theorem Effect.pc_eq (h : Effect s i t) (hcall : ¬ s.CallsEnvironment i) (ho : opcodeOf (encode i) ∉ pcWriters) :
    t.pc = s.pc := by
  have hset : ∀ (u : State) {X : Reg} (v : Word), X.writeProtected = false → (u.setReg X v).pc = u.pc := by
    intro u X v hp
    exact u.content_setReg_ne (q := .pc) (by rintro rfl; cases hp) v
  cases h with
  | wrote X v hr _ hp => rw [hset _ _ hp]; exact hr.content_eq .pc
  | moved X Y v _ _ hpx hpy => rw [hset _ _ hpy, hset _ _ hpx]
  | popped X v w hr _ hp => exact (hset _ v hp).trans (hr.content_eq .pc)
  | stored _ hw => exact hw.content_eq .pc
  | pushed v _ _ hw => exact hw.content_eq .pc
  | called n v pc hi => exact absurd (hi ▸ mem_writers (opcodeOf_append24 ..) (by decide)) ho
  | returned v pc hi => exact absurd (hi ▸ mem_writers (opcodeOf_append24 ..) (by decide)) ho
  | remainder X v h l _ hp => rw [hset _ _ hp]
  | jumped v ho' => exact absurd ho' ho
  | restarted hi => exact absurd (hi ▸ mem_writers (opcodeOf_append24 ..) (by decide)) ho
  | handedBack n _ hc => exact absurd hc hcall
  | _ => rfl

/-! ## ERR -/

/-- Where ERR is not named, at most an error's bit is added to it (R344). -/
theorem Effect.err_eq (h : Effect s i t) (hcall : ¬ s.CallsEnvironment i) (hrsr : i ≠ .rsr)
    (hd : Reg.err.number ∉ i.destinations) : ∃ added : Word, t.err = s.err ||| added := by
  have hset : ∀ (u : State) {X : Reg} (v : Word), X.number ∈ i.destinations → (u.setReg X v).err = u.err := by
    intro u X v hx
    exact u.content_setReg_ne (q := .err) (by rintro rfl; exact hd hx) v
  have hsame : t.err = s.err → ∃ added : Word, t.err = s.err ||| added := fun he => ⟨0, by simp [he]⟩
  cases h with
  | raised e info => exact ⟨s.params.errBits.mask e, rfl⟩
  | wrote X v hr hx => exact hsame ((hset _ v hx).trans (hr.content_eq .err))
  | moved X Y v hx hy => exact hsame ((hset _ 0 hy).trans (hset _ v hx))
  | popped X v w hr hx => exact hsame ((hset _ v hx).trans (hr.content_eq .err))
  | stored _ hw => exact hsame (hw.content_eq .err)
  | pushed v _ _ hw => exact hsame (hw.content_eq .err)
  | called n v pc _ _ hw => exact hsame (hw.content_eq .err)
  | returned v pc _ hr => exact hsame (hr.content_eq .err)
  | remainder X v h l hx => exact hsame (hset _ v hx)
  | restarted hi => exact absurd hi hrsr
  | handedBack n _ hc => exact absurd hc hcall
  | _ => exact hsame rfl

/-! ## Mode flags -/

/-- What the rule of R30 to R34 admits: each mode flag changes by its own instructions, `power` by an error besides. -/
def ModesChangeByRequest (s t : State) (i : Instr) : Prop :=
  (t.runmode ≠ s.runmode → ∃ n, i = .crm n) ∧
    (t.busOn ≠ s.busOn → i = .autsm ∨ i = .socl) ∧
    (t.protectOn ≠ s.protectOn → i = .hate ∨ i = .trst) ∧
    (t.zombie ≠ s.zombie → i = .zmb ∨ i = .aliv) ∧
    (t.osOn ≠ s.osOn → i = .kill) ∧
    (t.sysmode ≠ s.sysmode → ∃ n, i = .csm n) ∧
    (t.power ≠ s.power → i = .die ∨ (s.params.errHalts = true ∧ t.power = .waiting))

theorem ModesChangeByRequest.of_same (hm : s.SameModes t)
    (hp : t.power = s.power ∨ (s.params.errHalts = true ∧ t.power = .waiting)) : ModesChangeByRequest s t i :=
  ⟨absurd hm.runmode, absurd hm.busOn, absurd hm.protectOn, absurd hm.zombie, absurd hm.osOn, absurd hm.sysmode,
    fun hne => .inr (hp.resolve_left hne)⟩

theorem State.sameModes_setReg (s : State) (r : Reg) (v : Word) : s.SameModes (s.setReg r v) :=
  (s.onlyRegisters_setReg r v).machine.modes

theorem State.SameModes.trans {u : State} (h : s.SameModes t) (h' : t.SameModes u) : s.SameModes u :=
  ⟨h'.runmode.trans h.runmode, h'.busOn.trans h.busOn, h'.protectOn.trans h.protectOn, h'.zombie.trans h.zombie,
    h'.osOn.trans h.osOn, h'.sysmode.trans h.sysmode⟩

/-- States whose mode flags are computed to be the same. -/
theorem State.SameModes.of_eq (hrunmode : t.runmode = s.runmode := by rfl) (hbusOn : t.busOn = s.busOn := by rfl)
    (hprotectOn : t.protectOn = s.protectOn := by rfl) (hzombie : t.zombie = s.zombie := by rfl)
    (hosOn : t.osOn = s.osOn := by rfl) (hsysmode : t.sysmode = s.sysmode := by rfl) : s.SameModes t :=
  ⟨hrunmode, hbusOn, hprotectOn, hzombie, hosOn, hsysmode⟩

/-- Of the effects only those of the mode instructions, of an error under `ERR_HALTS`, of RSR and of an operating system
of the environment reach a mode flag. -/
theorem Effect.modes (h : Effect s i t) (hcall : ¬ s.CallsEnvironment i) (hrsr : i ≠ .rsr) :
    ModesChangeByRequest s t i := by
  cases h with
  | raised e info =>
    refine .of_same (s.marked_raise e info).modes ?_
    cases hhalt : s.params.errHalts <;> simp [hhalt]
  | wrote X v hr =>
    exact .of_same (hr.sameModes.trans (State.sameModes_setReg _ X v)) (.inl (by simpa using hr.power_eq))
  | moved X Y v =>
    exact .of_same ((s.sameModes_setReg X v).trans (State.sameModes_setReg _ Y 0)) (.inl (by simp))
  | popped X v w hr =>
    exact .of_same ((hr.sameModes.trans (State.sameModes_setReg _ X v)).trans .of_eq)
      (.inl (by simpa using hr.power_eq))
  | stored _ hw => exact .of_same hw.sameModes (.inl hw.power_eq)
  | pushed v _ _ hw => exact .of_same (.trans .of_eq hw.sameModes) (.inl hw.power_eq)
  | called n v pc _ _ hw => exact .of_same (.trans .of_eq (hw.sameModes.trans .of_eq)) (.inl hw.power_eq)
  | returned v pc _ hr => exact .of_same (hr.sameModes.trans .of_eq) (.inl hr.power_eq)
  | remainder X v h l => exact .of_same (.trans .of_eq (State.sameModes_setReg _ X v)) (.inl (by simp))
  | runMode n r hi => exact ⟨fun _ => ⟨n, hi⟩, by simp, by simp, by simp, by simp, by simp, by simp⟩
  | systemMode n hi => exact ⟨by simp, by simp, by simp, by simp, by simp, fun _ => ⟨n, hi⟩, by simp⟩
  | switchedOff hi => exact ⟨by simp, by simp, by simp, by simp, by simp, by simp, fun _ => .inl hi⟩
  | bus b hi => exact ⟨by simp, fun _ => hi, by simp, by simp, by simp, by simp, by simp⟩
  | protection b hi => exact ⟨by simp, by simp, fun _ => hi, by simp, by simp, by simp, by simp⟩
  | zombie b hi => exact ⟨by simp, by simp, by simp, fun _ => hi, by simp, by simp, by simp⟩
  | killed hi => exact ⟨by simp, by simp, by simp, by simp, fun _ => hi, by simp, by simp⟩
  | restarted hi => exact absurd hi hrsr
  | handedBack n _ hc => exact absurd hc hcall
  | _ => exact .of_same .of_eq (.inl rfl)

/-! ## Memory -/

/-- Of the effects only those of the stores, the pushes, CALL and an operating system of the environment reach the
memory. -/
theorem Effect.mem_eq (h : Effect s i t) (hcall : ¬ s.CallsEnvironment i) (ho : opcodeOf (encode i) ∉ memoryWriters) :
    t.mem = s.mem := by
  cases h with
  | wrote X v hr => simpa using hr.mem_eq
  | popped X v w hr => simpa using hr.mem_eq
  | returned v pc _ hr => exact hr.mem_eq
  | stored ho' => exact absurd ho' ho
  | pushed v ho' => exact absurd ho' ho
  | called n v pc hi => exact absurd (hi ▸ mem_writers (opcodeOf_append24 ..) (by decide)) ho
  | handedBack n _ hc => exact absurd hc hcall
  | _ => simp

end

/-! ## The rules -/

/-- Settles O18: PC by the effects that jump, the other three because no operand may write them. -/
theorem onlyJumpsChangePc : Obligations.OnlyJumpsChangePc := by
  intro i s t h hcall
  have heffect : Effect s i t := exec_next h
  refine ⟨heffect.pc_eq hcall, fun hrsr => ?_⟩
  have hkeeps : ∀ r : Reg, r.writeProtected = true → r ∉ implicitRegisters → t.content r = s.content r :=
    fun r hp hr => heffect.content_eq hcall hrsr hr (by rintro - k rfl; cases hp) (.inl hp)
  exact ⟨hkeeps .lin rfl (by decide), hkeeps .ir rfl (by decide), hkeeps .nin rfl (by decide)⟩

/-- Settles O23: a general register is no implicit one. -/
theorem generalRegistersChangeOnlyWhenNamed : Obligations.GeneralRegistersChangeOnlyWhenNamed := by
  intro i s t k h hcall hrst hrsr hd
  exact (exec_next h).content_eq hcall hrsr (by simp [implicitRegisters]) (fun hi => absurd hi hrst) (.inr hd)

/-- Settles O19: a bit that is set stays set when bits are added. -/
theorem errorBitsStay : Obligations.ErrorBitsStay := by
  intro i s t h hcall hrsr hd k hk
  obtain ⟨added, herr⟩ := (exec_next h).err_eq hcall hrsr hd
  simp [herr, hk]

/-- Settles O20: by the effects an instruction can have. -/
theorem modesChangeOnlyOnRequest : Obligations.ModesChangeOnlyOnRequest := by
  intro i s t h hcall hrsr
  exact (exec_next h).modes hcall hrsr

/-- Settles O22: where the memory is the same, every byte is. -/
theorem onlyStoresChangeMemory : Obligations.OnlyStoresChangeMemory := by
  intro i s t h hcall ho b
  rw [(exec_next h).mem_eq hcall ho]

end Sys2Proof.Machine
end

section
/-! PROOFS. The ports of the bus and the bus table (20_memory.md sections 2 and 3). -/

namespace Sys2Proof

/-! ## The list of ports -/

theorem mem_insertByType (p q : PortNeed) : ∀ ns : List PortNeed, q ∈ insertByType p ns ↔ q = p ∨ q ∈ ns
  | [] => by simp [insertByType]
  | n :: ns => by
    unfold insertByType
    split
    · simp
    · simp only [List.mem_cons, mem_insertByType p q ns]
      tauto

theorem length_insertByType (p : PortNeed) : ∀ ns : List PortNeed, (insertByType p ns).length = ns.length + 1
  | [] => rfl
  | n :: ns => by
    unfold insertByType
    split
    · rfl
    · simp [length_insertByType p ns]

/-- A list of ports in the order of the type numbers (R66). -/
def TypeOrdered (ns : List PortNeed) : Prop := ns.Pairwise fun p q => p.type.toNat ≤ q.type.toNat

theorem typeOrdered_insertByType (p : PortNeed) :
    ∀ {ns : List PortNeed}, TypeOrdered ns → TypeOrdered (insertByType p ns)
  | [], _ => List.pairwise_singleton _ p
  | n :: ns, h => by
    obtain ⟨hfirst, hrest⟩ := List.pairwise_cons.1 h
    unfold insertByType
    split
    · next hlt =>
      refine List.pairwise_cons.2 ⟨fun q hq => ?_, h⟩
      rcases List.mem_cons.1 hq with rfl | hq
      · exact hlt.le
      · exact hlt.le.trans (hfirst q hq)
    · next hge =>
      refine List.pairwise_cons.2 ⟨fun q hq => ?_, typeOrdered_insertByType p hrest⟩
      rcases (mem_insertByType p q ns).1 hq with rfl | hq
      · omega
      · exact hfirst q hq

/-- The further ports in the order of their ranges: those of PORTS, each put in by its type. -/
def Params.furtherPorts (p : Params) : List PortNeed := p.extraPorts.foldl (fun acc q => insertByType q acc) []

theorem Params.otherPorts_eq (p : Params) : p.otherPorts = minimalPorts ++ p.furtherPorts := rfl

/-- What putting ports into a list one after the other does to its members, its length and its order. -/
theorem foldl_insertByType (ns : List PortNeed) : ∀ acc : List PortNeed,
    (∀ q, q ∈ ns.foldl (fun acc q => insertByType q acc) acc ↔ q ∈ ns ∨ q ∈ acc) ∧
      (ns.foldl (fun acc q => insertByType q acc) acc).length = ns.length + acc.length ∧
      (TypeOrdered acc → TypeOrdered (ns.foldl (fun acc q => insertByType q acc) acc)) := by
  induction ns with
  | nil => simp
  | cons n ns ih =>
    intro acc
    obtain ⟨hmem, hlength, hordered⟩ := ih (insertByType n acc)
    refine ⟨fun q => ?_, ?_, fun h => hordered (typeOrdered_insertByType n h)⟩
    · rw [List.foldl_cons, hmem, mem_insertByType, List.mem_cons]
      tauto
    · rw [List.foldl_cons, hlength, length_insertByType, List.length_cons]
      omega

theorem Params.mem_furtherPorts (p : Params) (q : PortNeed) : q ∈ p.furtherPorts ↔ q ∈ p.extraPorts := by
  simpa [Params.furtherPorts] using (foldl_insertByType p.extraPorts []).1 q

theorem Params.length_furtherPorts (p : Params) : p.furtherPorts.length = p.extraPorts.length := by
  simpa [Params.furtherPorts] using (foldl_insertByType p.extraPorts []).2.1

theorem Params.typeOrdered_furtherPorts (p : Params) : TypeOrdered p.furtherPorts :=
  (foldl_insertByType p.extraPorts []).2.2 List.Pairwise.nil

/-- What the spec demands of the parameters, clause by clause (R7, R67, R70, R72, D9). -/
theorem Params.valid_iff (p : Params) : p.valid = true ↔
    4 ≤ p.memSize ∧ p.memSize + p.fixedNeed ≤ 2 ^ 31 ∧ p.extraPorts.length ≤ 252 ∧
      (∀ q ∈ p.extraPorts, 3 ≤ q.type.toNat) ∧ (ErrorCause.all.map p.errBits.bit).Nodup := by
  simp [Params.valid, and_assoc]

/-- The needs the bus lays out at power-up, the memory first. -/
def Params.portNeeds (p : Params) : List PortNeed := ⟨memoryType, p.memSize⟩ :: p.otherPorts

theorem Params.enumeratePorts_eq (p : Params) : p.enumeratePorts = layoutPorts 0 p.portNeeds := by
  simp [layoutPorts, Params.enumeratePorts, Params.portNeeds]

section

variable {p : Params}

theorem Params.type_pos_of_mem_otherPorts (hv : p.valid = true) {q : PortNeed} (hq : q ∈ p.otherPorts) :
    1 ≤ q.type.toNat := by
  obtain ⟨-, -, -, htypes, -⟩ := p.valid_iff.1 hv
  have hminimal : ∀ m ∈ minimalPorts, 1 ≤ m.type.toNat := by decide
  rcases List.mem_append.1 hq with hq | hq
  · exact hminimal q hq
  · have := htypes q ((p.mem_furtherPorts q).1 hq)
    omega

/-- The further ports have type numbers above those of terminal and keyboard, so the whole list is in type order. -/
theorem Params.typeOrdered_portNeeds (hv : p.valid = true) : TypeOrdered p.portNeeds := by
  obtain ⟨-, -, -, htypes, -⟩ := p.valid_iff.1 hv
  refine List.pairwise_cons.2 ⟨fun q _ => Nat.zero_le _, ?_⟩
  refine List.pairwise_append.2 ⟨by decide, p.typeOrdered_furtherPorts, fun m hm q hq => ?_⟩
  have hq3 := htypes q ((p.mem_furtherPorts q).1 hq)
  have hm2 : ∀ m ∈ minimalPorts, m.type.toNat ≤ 2 := by decide
  exact (hm2 m hm).trans (by omega)

/-- The ranges end below 2^31 (R72). -/
theorem Params.end_le_of_mem_enumeratePorts (hv : p.valid = true) {q : Port} (hq : q ∈ p.enumeratePorts) :
    q.start + q.length ≤ 2 ^ 31 := by
  obtain ⟨-, hfits, -⟩ := p.valid_iff.1 hv
  rw [p.enumeratePorts_eq] at hq
  have hend := (Machine.mem_layoutPorts _ _ hq).2.1
  rw [Params.portNeeds, List.map_cons, List.sum_cons] at hend
  exact hend.trans (by simpa [Params.fixedNeed] using hfits)

/-- The memory port is the one port of type 0. -/
theorem Params.eq_memoryPort (hv : p.valid = true) {q : Port} (hq : q ∈ p.enumeratePorts) (ht : q.type = memoryType) :
    q = ⟨memoryType, 0, p.memSize⟩ := by
  rcases List.mem_cons.1 hq with hq | hq
  · exact hq
  · obtain ⟨-, -, m, hm, hm'⟩ := Machine.mem_layoutPorts _ _ hq
    have hpos := Params.type_pos_of_mem_otherPorts hv hm
    rw [hm', ht] at hpos
    exact absurd hpos (by decide)

end

/-- A layout of needs in type order leaves no gap and keeps the order. -/
theorem consecutive_layoutPorts : ∀ {ns : List PortNeed} (a : Nat), TypeOrdered ns →
    Claims.Consecutive (layoutPorts a ns)
  | [], _, _ => trivial
  | [_], _, _ => trivial
  | n :: m :: ns, a, h => by
    obtain ⟨hfirst, hrest⟩ := List.pairwise_cons.1 h
    exact ⟨rfl, hfirst m (by simp), consecutive_layoutPorts (a + n.length) hrest⟩

/-- Without further ports there are three. -/
theorem Params.enumeratePorts_minimal {p : Params} (h : p.extraPorts = []) :
    p.enumeratePorts = [⟨0, 0, p.memSize⟩, ⟨1, p.memSize, 64⟩, ⟨2, p.memSize + 64, 64⟩] := by
  simp [Params.enumeratePorts, Params.otherPorts, h, minimalPorts, layoutPorts, memoryType]

/-- Settles O12: the list is the layout of needs in type order, whose lengths together fit below 2^31. -/
theorem portsAreConsecutive : Obligations.PortsAreConsecutive := by
  intro p hv
  refine ⟨⟨rfl, ?_, fun q hq => Params.end_le_of_mem_enumeratePorts hv hq⟩, Params.enumeratePorts_minimal⟩
  rw [p.enumeratePorts_eq]
  exact consecutive_layoutPorts 0 (Params.typeOrdered_portNeeds hv)

/-! ## The bytes of the bus table -/

theorem length_layoutPorts : ∀ (ns : List PortNeed) (a : Nat), (layoutPorts a ns).length = ns.length
  | [], _ => rfl
  | n :: ns, a => by simp [layoutPorts, length_layoutPorts ns]

/-- The table's one count byte holds the number of ports (R67). -/
theorem Params.length_enumeratePorts_le {p : Params} (hv : p.valid = true) : p.enumeratePorts.length ≤ 255 := by
  obtain ⟨-, -, hcount, -⟩ := p.valid_iff.1 hv
  have hfurther := p.length_furtherPorts
  simp only [p.enumeratePorts_eq, length_layoutPorts, Params.portNeeds, p.otherPorts_eq, List.length_cons,
    List.length_append, minimalPorts, List.length_nil]
  omega

/-- A byte of a number of the table is the byte of its 32-bit pattern, byte 0 of the table the most significant. -/
theorem numberByte_eq (v : Nat) {j : Nat} (h : j < 4) :
    numberByte v j = Machine.byteOf (BitVec.ofNat 32 v) (3 - j) := by
  apply BitVec.eq_of_toNat_eq
  rw [numberByte, Machine.byteOf, BitVec.extractLsb'_toNat, BitVec.toNat_ofNat, BitVec.toNat_ofNat,
    Nat.shiftRight_eq_div_pow]
  interval_cases j <;> omega

/-- The nine bytes of a port's entry, the one nearest to -1 first (R68). -/
def Port.entryBytes (p : Port) : List Byte :=
  bytesOfWord (BitVec.ofNat 32 p.start) ++ bytesOfWord (BitVec.ofNat 32 p.length) ++ [p.type]

theorem Port.entryBytes_getElem? (p : Port) {j : Nat} (h : j < 9) : p.entryBytes[j]? = some (p.entryByte j) := by
  have hbytes : p.entryBytes = (List.range 9).map p.entryByte := by
    simp only [Port.entryBytes, bytesOfWord, List.cons_append, List.nil_append, List.range, List.range.loop,
      List.map_cons, List.map_nil, Port.entryByte]
    norm_num [numberByte_eq, Machine.byteOf]
  rw [hbytes]
  simp [h]

/-- Behind the count the table is the ports' entries one after the other, and zeros (R68, R71). -/
theorem tableByte_eq : ∀ (ports : List Port) (k : Nat),
    tableByte ports (k + 2) = (ports.flatMap Port.entryBytes)[k]?.getD 0
  | [], k => by simp [tableByte]
  | p :: ports, k => by
    have hlength : p.entryBytes.length = 9 := rfl
    by_cases hk : k < 9
    · rw [List.flatMap_cons, List.getElem?_append_left (by omega), p.entryBytes_getElem? hk]
      simp [tableByte, Nat.div_eq_of_lt hk, Nat.mod_eq_of_lt hk]
    · obtain ⟨k, rfl⟩ : ∃ k', k = k' + 9 := ⟨k - 9, by omega⟩
      rw [List.flatMap_cons, List.getElem?_append_right (by omega), hlength, Nat.add_sub_cancel,
        ← tableByte_eq ports k]
      simp [tableByte]

/-- Byte j of the entry of port i. -/
theorem tableByte_entry {ports : List Port} {i : Nat} {p : Port} (hp : ports[i]? = some p) {j : Nat} (hj : j < 9) :
    tableByte ports (2 + 9 * i + j) = p.entryByte j := by
  have hne : 2 + 9 * i + j ≠ 1 := by omega
  have hi : (2 + 9 * i + j - 2) / 9 = i := by omega
  have hj' : (2 + 9 * i + j - 2) % 9 = j := by omega
  simp [tableByte, hne, hi, hj', hp]

/-- Behind the last entry the table is zero (R71). -/
theorem tableByte_beyond {ports : List Port} {k : Nat} (h : 2 + 9 * ports.length ≤ k) : tableByte ports k = 0 := by
  have hne : k ≠ 1 := by omega
  have hnone : ports[(k - 2) / 9]? = none := List.getElem?_eq_none (by omega)
  simp [tableByte, hne, hnone]

end Sys2Proof

namespace Sys2Proof.Machine

open Sys2Proof.Claims

/-! ## Reading the table byte by byte -/

theorem toInt_neg_ofNat {k : Nat} (hk : k ≤ 2 ^ 31) : (BitVec.ofInt 32 (-k)).toInt = -k := by
  rw [BitVec.toInt_ofInt]
  apply Int.bmod_eq_of_le <;> omega

/-- A read at a negative address -k asks the table for the bytes from k on. -/
theorem memRead_of_neg (s : State) {a : Word} (ha : a.toInt < 0) (n : Width) :
    memRead s a n = (tableRead s (-a.toInt).toNat n).map fun v => (v, s) := by
  rw [memRead, if_neg (show ¬ 0 ≤ signed a from not_le.2 ha)]
  rfl

theorem memRead_negative (s : State) {k : Nat} (hk : 1 ≤ k) (hk' : k ≤ 2 ^ 31) (n : Width) :
    memRead s (BitVec.ofInt 32 (-k)) n = (tableRead s k n).map fun v => (v, s) := by
  have hint : (BitVec.ofInt 32 (-k)).toInt = -k := toInt_neg_ofNat hk'
  rw [memRead_of_neg s (by omega), hint, neg_neg, Int.toNat_natCast]

/-- The direction of NEG_ACCESS does not matter to one byte, and no more than the table region is served (R79). -/
theorem tableRead_byte (s : State) {k : Nat} (hk : 1 ≤ k) :
    tableRead s k .byte = if k ≤ tableSize then some ((tableByte s.busPorts k).setWidth 32) else none := by
  cases hneg : s.params.negAccess <;> simp [tableRead, hneg, Width.bytes, assemble, zext, hk]

theorem tableHolds_of_tableByte {s : State} {k : Nat} {b : Byte} (hk : 1 ≤ k) (hk' : k ≤ 2306)
    (h : tableByte s.busPorts k = b) : TableHolds s k b := by
  rw [TableHolds, memRead_negative s hk (by omega), tableRead_byte s hk, if_pos (show k ≤ tableSize from hk'), h]
  rfl

/-- A number of an entry is four bytes of the table. -/
theorem tableHoldsNumber_of_tableByte {s : State} {k v : Nat} (hk : 1 ≤ k) (hk' : k + 3 ≤ 2306)
    (h : ∀ j < 4, tableByte s.busPorts (k + j) = numberByte v j) : TableHoldsNumber s k v :=
  fun j hj => tableHolds_of_tableByte (by omega) (by omega) ((h j hj).trans (numberByte_eq v hj))

/-- With the three minimal ports the table holds the bytes of R69. -/
theorem tableByte_minimal (m k : Nat) :
    tableByte [⟨0, 0, m⟩, ⟨1, m, 64⟩, ⟨2, m + 64, 64⟩] (k + 1) = (minimalTable m)[k]?.getD 0 := by
  cases k with
  | zero => rfl
  | succ k =>
    rw [tableByte_eq]
    rfl

/-- Settles O13: a byte read at -k gives byte k of the table, and each clause names which byte that is. -/
theorem busTableDescribesPorts : Obligations.BusTableDescribesPorts := by
  intro s hs
  have hcount : s.busPorts.length ≤ 255 := hs.busBuilt ▸ Params.length_enumeratePorts_le hs.paramsValid
  refine ⟨⟨tableHolds_of_tableByte le_rfl (by omega) rfl, hcount⟩, fun i p hp => ?_, fun k hk hk' => ?_,
    fun k hk hk' => ?_, fun hextra k hk hk' => ?_⟩
  · have hi : i < s.busPorts.length := (List.getElem?_eq_some_iff.1 hp).1
    have hmem : p ∈ s.params.enumeratePorts := hs.busBuilt ▸ List.mem_of_getElem? hp
    have hentry : ∀ {j : Nat}, j < 9 → tableByte s.busPorts (2 + 9 * i + j) = p.entryByte j := tableByte_entry hp
    refine ⟨tableHoldsNumber_of_tableByte (by omega) (by omega) fun j hj => ?_,
      tableHoldsNumber_of_tableByte (by omega) (by omega) fun j hj => ?_,
      tableHolds_of_tableByte (by omega) (by omega) ?_, Params.end_le_of_mem_enumeratePorts hs.paramsValid hmem⟩
    · rw [hentry (by omega), Port.entryByte, if_pos hj]
    · rw [show 6 + 9 * i + j = 2 + 9 * i + (4 + j) by omega, hentry (by omega), Port.entryByte, if_neg (by omega),
        if_pos (by omega), Nat.add_sub_cancel_left]
    · rw [show 10 + 9 * i = 2 + 9 * i + 8 by omega, hentry (by omega)]
      rfl
  · exact tableHolds_of_tableByte (by omega) hk' (tableByte_beyond hk)
  · rw [memRead_negative s (by omega) hk', tableRead_byte s (by omega), if_neg (by unfold tableSize; omega)]
    rfl
  · refine tableHolds_of_tableByte hk hk' ?_
    obtain ⟨k, rfl⟩ : ∃ k', k = k' + 1 := ⟨k - 1, by omega⟩
    rw [hs.busBuilt, Params.enumeratePorts_minimal hextra]
    exact tableByte_minimal s.params.memSize k

end Sys2Proof.Machine
end

section
/-! PROOFS. What every step keeps: soundness, SP in its range, the parameters, the bus's list and the traces
(10_state.md section 2; 20_memory.md sections 2 and 3; 60_exceptions.md section 5). -/

namespace Sys2Proof.Machine

/-! ## What a step can do -/

/-- Every next state of a step: the same state, the fetch error, or the fetched state, to which at most one error report
or one instruction has been applied (R42). -/
theorem step_next {s t : State} (h : step s = .next t) : t = s ∨ t = s.fetchError ∨
    ∃ w s1, AfterRead s.ticked s1 ∧
      (t = s1.fetched w ∨ t = (s1.fetched w).raise .illegalOpcode w ∨ ∃ i, exec i (s1.fetched w) = .next t) := by
  cases hpower : s.power with
  | running =>
    rcases step_running hpower with ⟨_, hstep⟩ | ⟨w, s1, hfetch, hstep⟩
    · rw [hstep] at h
      cases h
      exact .inr (.inl rfl)
    · refine .inr (.inr ⟨w, s1, afterRead hfetch, ?_⟩)
      rcases executeWord_next (hstep ▸ h) with ht | ⟨i, _, hexec⟩ | ⟨_, ht⟩
      · exact .inl ht
      · exact .inr (.inr ⟨i, hexec⟩)
      · exact .inr (.inl ht)
  | _ =>
    unfold step runCycle at h
    rw [hpower] at h
    cases h
    exact .inl rfl

/-- What a fetch error, a fetch and every effect of an instruction keep, every step keeps. -/
theorem step_keeps {P : State → Prop} (hfetchError : ∀ {s}, P s → P s.fetchError)
    (hfetched : ∀ {s s1 w}, AfterRead s.ticked s1 → P s → P (s1.fetched w))
    (heffect : ∀ {s t i}, Effect s i t → P s → P t) {s t : State} (hs : P s) (h : step s = .next t) : P t := by
  rcases step_next h with rfl | rfl | ⟨w, s1, hread, rfl | rfl | ⟨i, hexec⟩⟩
  · exact hs
  · exact hfetchError hs
  · exact hfetched hread hs
  · exact heffect (i := .nop) (.raised _ _) (hfetched hread hs)
  · exact heffect (exec_next hexec) (hfetched hread hs)

/-! ## Soundness -/

section

variable {s t : State} {i : Instr}

theorem AfterRead.sound (h : AfterRead s t) (hs : s.Sound) : t.Sound := by
  obtain ⟨calls, rfl⟩ := h.eq_trace
  exact hs.congr rfl rfl rfl

/-- In a sound state the one port of type 0 is the memory's, so a write to it stays within the memory. -/
theorem AfterWrite.sound (h : AfterWrite s t) (hs : s.Sound) : t.Sound := by
  cases h with
  | memory p a bs hp ht hlow hhigh =>
    have hport : p = ⟨memoryType, 0, s.params.memSize⟩ := Params.eq_memoryPort hs.paramsValid (hs.busBuilt ▸ hp) ht
    rw [hport, Nat.zero_add] at hhigh
    exact ⟨hs.paramsValid, hs.busBuilt, Memory.wf_store bs hs.memCanonical a,
      Memory.below_store bs hhigh hs.memWithin⟩
  | device e => exact hs.congr rfl rfl rfl

theorem Effect.sound (h : Effect s i t) (hs : s.Sound) : t.Sound := by
  cases h with
  | wrote X v hr => exact (hr.sound hs).congr (by simp) (by simp) (by simp)
  | moved X Y v => exact hs.congr (by simp) (by simp) (by simp)
  | popped X v w hr => exact (hr.sound hs).congr (by simp) (by simp) (by simp)
  | stored _ hw => exact hw.sound hs
  | pushed v _ _ hw => exact hw.sound (hs.congr rfl rfl rfl)
  | called n v pc _ _ hw => exact (hw.sound (hs.congr rfl rfl rfl)).congr rfl rfl rfl
  | returned v pc _ hr => exact (hr.sound hs).congr rfl rfl rfl
  | remainder X v h l => exact hs.congr (by simp) (by simp) (by simp)
  | restarted => exact ⟨hs.paramsValid, rfl, hs.memCanonical, hs.memWithin⟩
  | handedBack => exact ⟨hs.paramsValid, hs.busBuilt, Memory.wf_clip .., Memory.below_clip ..⟩
  | _ => exact hs.congr rfl rfl rfl

theorem step_sound (hs : s.Sound) (h : step s = .next t) : t.Sound :=
  step_keeps (P := State.Sound) (fun hs => hs.congr rfl rfl rfl)
    (fun hread hs => (hread.sound (hs.congr rfl rfl rfl)).congr rfl rfl rfl) Effect.sound hs h

/-! ## What is recorded and what is fixed -/

/-- The parameters, the bus's list as power-up builds it, and the traces but for new entries at their ends. -/
structure State.KeepsRecord (s t : State) : Prop where
  params : t.params = s.params
  busPorts : s.busPorts = s.params.enumeratePorts → t.busPorts = s.busPorts
  deviceTrace : ∃ calls, t.deviceTrace = s.deviceTrace ++ calls
  wakeTrace : ∃ codes, t.wakeTrace = s.wakeTrace ++ codes

theorem State.KeepsRecord.of_same (hparams : t.params = s.params := by simp)
    (hports : t.busPorts = s.busPorts := by simp)
    (hdevice : t.deviceTrace = s.deviceTrace := by simp) (hwake : t.wakeTrace = s.wakeTrace := by simp) :
    s.KeepsRecord t :=
  ⟨hparams, fun _ => hports, ⟨[], by simp [hdevice]⟩, ⟨[], by simp [hwake]⟩⟩

theorem State.KeepsRecord.trans {u : State} (h : s.KeepsRecord t) (h' : t.KeepsRecord u) : s.KeepsRecord u := by
  obtain ⟨calls, hcalls⟩ := h.deviceTrace
  obtain ⟨calls', hcalls'⟩ := h'.deviceTrace
  obtain ⟨codes, hcodes⟩ := h.wakeTrace
  obtain ⟨codes', hcodes'⟩ := h'.wakeTrace
  refine ⟨h'.params.trans h.params, fun hbuilt => ?_, ⟨calls ++ calls', ?_⟩, ⟨codes ++ codes', ?_⟩⟩
  · have hports := h.busPorts hbuilt
    exact (h'.busPorts (by rw [hports, hbuilt, h.params])).trans hports
  · rw [hcalls', hcalls, List.append_assoc]
  · rw [hcodes', hcodes, List.append_assoc]

theorem AfterRead.keepsRecord (h : AfterRead s t) : s.KeepsRecord t := by
  obtain ⟨calls, rfl⟩ := h.eq_trace
  exact ⟨rfl, fun _ => rfl, ⟨calls, rfl⟩, ⟨[], by simp⟩⟩

theorem AfterWrite.keepsRecord (h : AfterWrite s t) : s.KeepsRecord t := by
  obtain ⟨mem, calls, rfl⟩ := h.eq_memory_trace
  exact ⟨rfl, fun _ => rfl, ⟨calls, rfl⟩, ⟨[], by simp⟩⟩

/-- No effect changes what is fixed or takes back what is recorded; RSR builds the bus's list as power-up does. -/
theorem Effect.keepsRecord (h : Effect s i t) : s.KeepsRecord t := by
  cases h with
  | wrote X v hr => exact hr.keepsRecord.trans .of_same
  | popped X v w hr => exact hr.keepsRecord.trans .of_same
  | stored _ hw => exact hw.keepsRecord
  | pushed v _ _ hw => exact .trans .of_same hw.keepsRecord
  | called n v pc _ _ hw => exact .trans .of_same (hw.keepsRecord.trans .of_same)
  | returned v pc _ hr => exact hr.keepsRecord.trans .of_same
  | restarted => exact ⟨rfl, Eq.symm, ⟨[], by simp⟩, ⟨[], by simp⟩⟩
  | woken n => exact ⟨rfl, fun _ => rfl, ⟨[], by simp⟩, ⟨[n], rfl⟩⟩
  | _ => exact .of_same

theorem step_keepsRecord (h : step s = .next t) : s.KeepsRecord t :=
  step_keeps (P := s.KeepsRecord) (fun hu => hu.trans .of_same)
    (fun hread hu => hu.trans (.trans .of_same (hread.keepsRecord.trans .of_same)))
    (fun he hu => hu.trans he.keepsRecord) .of_same h

/-! ## SP -/

theorem State.Sound.memMax_lt_memSize (hs : s.Sound) : s.params.memMax < s.params.memSize := by
  obtain ⟨hsize, -⟩ := s.params.valid_iff.1 hs.paramsValid
  unfold Params.memMax
  omega

/-- A write to a register leaves SP in its range, where it is SP by the range check, else because it is not SP. -/
theorem State.sp_setReg_le {bound : Nat} (hs : s.sp.toNat ≤ bound) {X : Reg} {v : Word}
    (hv : X = .sp → v.toNat ≤ bound) : (s.setReg X v).sp.toNat ≤ bound := by
  have hsp : (s.setReg X v).sp = if .sp = X ∧ X ≠ .zero then v else s.sp := s.content_setReg X .sp v
  rw [hsp]
  split
  · next hX => exact hv hX.1.symm
  · exact hs

theorem AfterRead.sp_eq (h : AfterRead s t) : t.sp = s.sp := h.content_eq .sp

theorem AfterWrite.sp_eq (h : AfterWrite s t) : t.sp = s.sp := h.content_eq .sp

/-- Every effect leaves SP in its range, where an operating system of the environment does (R26, R347). -/
theorem Effect.sp_le (h : Effect s i t) (hs : s.sp.toNat ≤ s.params.memMax) (hsp : HandlerKeepsSp s.params) :
    t.sp.toNat ≤ s.params.memMax := by
  cases h with
  | wrote X v hr _ _ hv => exact State.sp_setReg_le (hr.sp_eq ▸ hs) hv
  | moved X Y v _ _ _ _ hv => exact State.sp_setReg_le (State.sp_setReg_le hs hv) fun _ => Nat.zero_le _
  | popped X v w _ _ _ hw => exact hw
  | stored _ hw => exact hw.sp_eq ▸ hs
  | pushed v _ hv hw => exact hw.sp_eq ▸ hv
  | called n v pc _ hv hw => exact hw.sp_eq ▸ hv
  | returned v pc _ _ hv => exact hv
  | remainder X v h l _ _ hv => exact State.sp_setReg_le (s := { s with hi := h, lo := l }) hs hv
  | restarted => exact (State.toNat_content_powerUp_sp s.params s.mem).le
  | handedBack n _ hc => exact hsp hc.2.2 n s
  | _ => exact hs

end

/-- With parameters whose operating system keeps SP in its range every step keeps the invariant. -/
theorem step_inv {s t : State} (hs : s.Inv) (hsp : HandlerKeepsSp s.params) (h : step s = .next t) : t.Inv := by
  have hparams : t.params = s.params := (step_keepsRecord h).params
  have hkeeps : t.params = s.params ∧ t.sp.toNat ≤ s.params.memMax := by
    refine step_keeps (P := fun u => u.params = s.params ∧ u.sp.toNat ≤ s.params.memMax) id ?_ ?_
      ⟨rfl, hs.spInRange⟩ h
    · rintro u u1 w hread ⟨hu, hu'⟩
      exact ⟨hread.keepsRecord.params.trans hu, hread.sp_eq ▸ hu'⟩
    · rintro u v i he ⟨hu, hu'⟩
      exact ⟨he.keepsRecord.params.trans hu, hu ▸ he.sp_le (hu.symm ▸ hu') (hu.symm ▸ hsp)⟩
  exact ⟨step_sound hs.toSound h, hparams.symm ▸ hkeeps.2⟩

/-! ## Power-up and runs -/

theorem State.powerUp_inv {p : Params} {image : Memory} (hv : p.valid = true) (hwf : Memory.wf image = true)
    (hin : Memory.below p.memSize image = true) : (State.powerUp p image).Inv :=
  ⟨⟨hv, rfl, hwf, hin⟩, (State.toNat_content_powerUp_sp p image).le⟩

/-- What holds of a state and is kept by every step holds of every state that is reached. -/
theorem Reaches.keeps {P : State → Prop} (hstep : ∀ {s t}, P s → Machine.step s = .next t → P t) {s t : State} {k : Nat}
    (hs : P s) (h : Reaches s k t) : P t := by
  induction h with
  | refl => exact hs
  | step hst _ ih => exact ih (hstep hs hst)

/-- Settles O25: each part of soundness is kept by every effect, and SP besides where the operating system keeps it. -/
theorem stepKeepsInvariant : Obligations.StepKeepsInvariant :=
  ⟨fun _ _ => step_sound, fun _ _ => step_inv⟩

/-- Settles O21: no effect of an instruction reaches the parameters or takes an entry off a trace. -/
theorem parametersStay : Obligations.ParametersStay := by
  intro s t h
  obtain ⟨hparams, hports, hdevice, hwake⟩ := step_keepsRecord h
  exact ⟨hparams, hports, hdevice, hwake⟩

/-- Settles O26: power-up builds the bus's list from the parameters and puts SP at MEM_MAX. -/
theorem powerUpIsSound : Obligations.PowerUpIsSound :=
  ⟨fun _ _ => State.powerUp_inv, State.powerUp_inv (by decide) rfl rfl⟩

/-- Settles O27: by induction on the run, from power-up. -/
theorem reachableStatesAreSound : Obligations.ReachableStatesAreSound := by
  intro p image k t hv hwf hin hreach
  have hstart : (State.powerUp p image).Inv := State.powerUp_inv hv hwf hin
  obtain ⟨hsound, hparams⟩ : t.Sound ∧ t.params = p :=
    hreach.keeps (P := fun u => u.Sound ∧ u.params = p)
      (fun ⟨hu, hp⟩ hst => ⟨step_sound hu hst, (step_keepsRecord hst).params.trans hp⟩) ⟨hstart.toSound, rfl⟩
  refine ⟨hsound, hparams, hparams ▸ hsound.busBuilt, fun hsp => ?_⟩
  obtain ⟨hinv, -⟩ : t.Inv ∧ t.params = p :=
    hreach.keeps (P := fun u => u.Inv ∧ u.params = p)
      (fun ⟨hu, hp⟩ hst => ⟨step_inv hu (hp ▸ hsp) hst, (step_keepsRecord hst).params.trans hp⟩) ⟨hstart, rfl⟩
  exact ⟨hinv, hparams ▸ hinv.spInRange.trans_lt hsound.memMax_lt_memSize⟩

end Sys2Proof.Machine
end

section
/-! PROOFS. Which reads the bus serves, and the cycle: what a step fetches and what it does with the word
(10_state.md sections 3 and 6; 20_memory.md sections 3 to 5; 60_exceptions.md section 2). -/

namespace Sys2Proof.Machine

/-! ## Reads that the bus serves and reads that it does not -/

section

variable {s : State} {a : Word} {n : Width}

/-- The bytes that `NEG_ACCESS` names are those the table read assembles (R79). -/
theorem tableRead_of_tableBytes {k : Nat} {byteAt : Nat → Byte} (h : s.TableBytes k n byteAt) :
    tableRead s k n = some (assemble byteAt n) := by
  have hn := n.bytes_pos
  unfold State.TableBytes at h
  unfold tableRead
  cases hneg : s.params.negAccess <;> simp only [hneg] at h ⊢
  case mirrored =>
    obtain ⟨hlow, hhigh, hbytes⟩ := h
    rw [if_pos (by unfold tableSize; omega), ← funext hbytes]
  case ascending =>
    obtain ⟨hlow, hhigh, hbytes⟩ := h
    rw [if_pos (by unfold tableSize; omega), ← funext hbytes]
  case fault =>
    obtain ⟨hlow, hhigh, hbyte, hbytes⟩ := h
    rw [if_pos ⟨hhigh, hbyte⟩, ← funext hbytes]

/-- Where the table's region does not hold the bytes, the table serves nothing. -/
theorem tableRead_eq_none {k : Nat} (hk : 1 ≤ k) (h : ∀ byteAt, ¬ s.TableBytes k n byteAt) :
    tableRead s k n = none := by
  unfold State.TableBytes at h
  unfold tableRead
  cases hneg : s.params.negAccess <;> simp only [hneg] at h ⊢
  case mirrored => exact if_neg fun hin => h _ ⟨hk, by unfold tableSize at hin; omega, fun _ => rfl⟩
  case ascending => exact if_neg fun hin => h _ ⟨hin.2, hin.1, fun _ => rfl⟩
  case fault => exact if_neg fun hin => h _ ⟨hk, hin.1, hin.2, fun _ => rfl⟩

/-- A read at a negative address gives the table's bytes and changes nothing (R79, R91). -/
theorem memRead_table {byteAt : Nat → Byte} (ha : a.toInt < 0) (h : s.TableBytes (-a.toInt).toNat n byteAt) :
    memRead s a n = some (assemble byteAt n, s) := by
  rw [memRead_of_neg s ha, tableRead_of_tableBytes h]
  rfl

/-- A read in a device port's range is one call of that device (R80). -/
theorem memRead_device (hs : s.Sound) {p : Port} (hp : p ∈ s.busPorts) (ht : p.type ≠ memoryType)
    (hlow : p.start ≤ a.toNat) (hhigh : a.toNat + n.bytes ≤ p.start + p.length) :
    memRead s a n = some (deviceRead s p (a.toNat - p.start) n) := by
  have hn := n.bytes_pos
  obtain ⟨hport, hend⟩ := hs.findPort hn hp hlow hhigh
  rw [memRead, if_pos (signed_nonneg_of_lt (by omega)), if_neg (by omega), hport]
  exact if_neg ht

theorem memRead_cannot (h : s.CannotRead a n) : memRead s a n = none := by
  rcases h with ⟨ha, hport⟩ | ⟨ha, htable⟩
  · rw [memRead, if_pos (show 0 ≤ signed a from ha), noPort_iff.1 hport]
    exact ite_self none
  · rw [memRead_of_neg s ha, tableRead_eq_none (by omega) htable]
    rfl

end

/-! ## Errors that are no protection violation -/

/-- They are reported whether the protection mechanisms are on or off (R360). -/
theorem reports_of_not_protection (s : State) {e : ErrorCause} (he : e.isProtection = false) (info : Word) :
    Reports (signalError s e info) s e info :=
  signalError_reports info fun hprotection => absurd (he.symm.trans hprotection) Bool.false_ne_true

/-! ## FETCH -/

section

variable {s s1 : State} {w : Word}

theorem memoryWord_memory (hb : s.busPorts = s.params.enumeratePorts) {a : Word}
    (h : a.toNat + 4 ≤ s.params.memSize) : memoryWord s a = some (s.wordAt a.toNat) := by
  have hsize := s.params.memSize_le
  rw [memoryWord, if_pos (signed_nonneg_of_lt (by omega)), findPort_memory hb h]
  exact if_pos rfl

/-- NIN takes the word behind the fetched one where it lies in the memory (R39). -/
theorem nextInstruction_memory (hb : s.busPorts = s.params.enumeratePorts)
    (h : (s.pc + 4).toNat + 4 ≤ s.params.memSize) : nextInstruction s (advance s.pc) = s.wordAt (s.pc + 4).toNat := by
  rw [advance_eq, nextInstruction, memoryWord_memory hb h]
  rfl

/-- The state after a fetch that has called these devices is what R42 says. -/
theorem State.fetched_spec (hb : s.busPorts = s.params.enumeratePorts) (w : Word) (calls : List DeviceEvent) :
    s.Fetched w calls (State.fetched { s.ticked with deviceTrace := s.deviceTrace ++ calls } w) where
  lin := rfl
  ir := rfl
  pc := advance_eq s.pc
  nin h := nextInstruction_memory (s := { s.ticked with deviceTrace := s.deviceTrace ++ calls }) hb h
  registers r hr := by
    simp only [List.mem_cons, List.not_mem_nil, or_false, not_or] at hr
    obtain ⟨hlin, hir, hpc, hnin⟩ := hr
    cases r with
    | lin => exact absurd rfl hlin
    | ir => exact absurd rfl hir
    | pc => exact absurd rfl hpc
    | nin => exact absurd rfl hnin
    | _ => rfl
  bytes _ := rfl
  power := rfl
  modes := .of_eq
  busPorts := rfl
  params := rfl
  wakeTrace := rfl
  deviceTrace := rfl
  tick := by simp [State.ticked]

/-! ## DECODE and EXECUTE -/

theorem executeWord_of_decode {i : Instr} (hz : s.zombie = false) (hd : decode w = .ok i) :
    executeWord s w = exec i s := by
  simp [executeWord, hz, hd]

theorem executeWord_illegal (hz : s.zombie = false) (hd : decode w = .error .illegalOpcode) :
    executeWord s w = signalError s .illegalOpcode w := by
  simp [executeWord, hz, hd]

theorem opcodeOf_eq_iff (op : Byte) : opcodeOf w = op ↔ w.toNat / 2 ^ 24 = op.toNat := by
  rw [← toNat_opcodeOf, BitVec.toNat_inj]

/-- A zombie machine does nothing with a word that is not ALIV's (R33). -/
theorem executeWord_zombie (hz : s.zombie = true) (hop : w.toNat / 2 ^ 24 ≠ 0x0B) : executeWord s w = .next s := by
  have hne : opcodeOf w ≠ alivOpcode := mt (opcodeOf_eq_iff alivOpcode).1 hop
  simp [executeWord, hz, hne]

theorem executeWord_aliv (hop : w.toNat / 2 ^ 24 = 0x0B) : executeWord s w = .next { s with zombie := false } := by
  have heq : opcodeOf w = alivOpcode := (opcodeOf_eq_iff alivOpcode).2 hop
  have hd : decode w = .ok .aliv := decode_of_opcode heq rfl
  simp [executeWord, heq, hd, exec, execAliv]

/-- A running machine takes the word it has fetched to EXECUTE. -/
theorem step_of_memFetch (hrun : s.power = .running) (hfetch : memFetch s = some (w, s1)) :
    step s = executeWord (s1.fetched w) w := by
  rcases step_running hrun with ⟨hnone, _⟩ | ⟨w', s1', hfetch', hstep⟩
  · rw [hfetch] at hnone
    cases hnone
  · rw [hfetch] at hfetch'
    cases hfetch'
    exact hstep

theorem executes_of_step {u : State} (hstep : step s = executeWord u w) (hz : u.zombie = s.zombie) :
    s.Executes w u where
  decoded i hs hd := hstep.trans (executeWord_of_decode (hz.trans hs) hd)
  illegal hs hd := by
    rw [hstep, executeWord_illegal (hz.trans hs) hd]
    exact reports_of_not_protection _ rfl w
  zombie hs hop := hstep.trans (executeWord_zombie (hz.trans hs) hop)
  aliv _ hop := hstep.trans (executeWord_aliv hop)

/-- A running machine whose fetch is answered fetches the word and executes it, wherever the fetch has gone. -/
theorem fetches_and_executes (hb : s.busPorts = s.params.enumeratePorts) (hrun : s.power = .running)
    {calls : List DeviceEvent}
    (hfetch : memFetch s = some (w, { s.ticked with deviceTrace := s.deviceTrace ++ calls })) :
    ∃ u, s.Fetched w calls u ∧ s.Executes w u :=
  ⟨_, s.fetched_spec hb w calls, executes_of_step (step_of_memFetch hrun hfetch) rfl⟩

theorem State.WillFetch.fetches_and_executes (h : s.WillFetch w) : ∃ u, s.Fetched w [] u ∧ s.Executes w u := by
  have hread : memFetch s = some (s.wordAt s.pc.toNat, s.ticked) :=
    memRead_memory (s := s.ticked) h.sound.busBuilt h.inMemory
  refine Machine.fetches_and_executes h.sound.busBuilt h.running ?_
  rw [hread, h.word, List.append_nil]
  rfl

end

/-! ## The rules of the cycle -/

/-- Settles O2: the decoder refuses exactly the words of unassigned opcodes, and EXECUTE reports what it refuses. -/
theorem unassignedOpcodesAreReported : Obligations.UnassignedOpcodesAreReported := by
  refine ⟨decode_error_iff_unassigned, by decide, fun s w h hz hop => ?_⟩
  obtain ⟨u, hfetched, hexecutes⟩ := h.fetches_and_executes
  exact ⟨u, hfetched, hexecutes.illegal hz ((decode_error_iff_unassigned w).2 hop)⟩

/-- Settles O5: the fetch is answered by the memory. -/
theorem stepRunsDecodedInstruction : Obligations.StepRunsDecodedInstruction := by
  intro s w i h hz hd
  obtain ⟨u, hfetched, hexecutes⟩ := h.fetches_and_executes
  exact ⟨u, hfetched, hexecutes.decoded i hz hd⟩

/-- Settles O6: the zombie guard lets only ALIV's opcode pass. -/
theorem zombieOnlyFetches : Obligations.ZombieOnlyFetches := by
  intro s w h hz
  obtain ⟨u, hfetched, hexecutes⟩ := h.fetches_and_executes
  exact ⟨u, hfetched, hexecutes.zombie hz, hexecutes.aliv hz⟩

/-- Settles O7: the cycle looks at `power` first. -/
theorem stoppedMachineStays : Obligations.StoppedMachineStays := by
  intro s hpower
  unfold step runCycle
  cases h : s.power with
  | running => exact absurd h hpower
  | waiting => rfl
  | off => rfl

/-- A fetch that is not answered ends the run (R353). -/
theorem step_of_memFetch_none {s : State} (hrun : s.power = .running) (hfetch : memFetch s = none) :
    step s = .next s.fetchError := by
  rcases step_running hrun with ⟨_, hstep⟩ | ⟨w, s1, hfetch', _⟩
  · exact hstep
  · rw [hfetch] at hfetch'
    cases hfetch'

/-- The fetch error is the error's mark, and the machine waits. -/
theorem State.content_fetchError (s : State) (r : Reg) :
    s.fetchError.content r = (s.raise .fetchError s.pc).content r := by
  cases r <;> rfl

/-- Settles O8: the fetch reads four bytes at PC, and an unanswered one leaves the mark of the fetch error. -/
theorem fetchErrorEndsRun : Obligations.FetchErrorEndsRun := by
  intro s hrun hcannot
  have hfetch : memFetch s = none := memRead_cannot (s := s.ticked) hcannot
  have hmark : s.Marked (s.raise .fetchError s.pc) .fetchError s.pc := s.marked_raise _ _
  exact ⟨s.fetchError, step_of_memFetch_none hrun hfetch, hmark.err, rfl, rfl,
    fun r hr => (s.content_fetchError r).trans (hmark.registers r hr), fun _ => rfl, .of_eq, ⟨rfl, rfl, rfl, rfl⟩, rfl⟩

/-- Settles O60: the fetch is the read that the table or the device answers, and its word is executed like any other. -/
theorem fetchesBeyondMemory : Obligations.FetchesBeyondMemory := by
  intro s hs hrun
  refine ⟨fun byteAt hneg htable => ?_, fun p hp ht hlow hhigh => ?_⟩
  · have hfetch : memFetch s = some (wordFrom byteAt, s.ticked) := memRead_table (s := s.ticked) hneg htable
    refine fetches_and_executes hs.busBuilt hrun (hfetch.trans ?_)
    rw [List.append_nil]
    rfl
  · have hsound : s.ticked.Sound := hs.congr rfl rfl rfl
    exact ⟨_, fetches_and_executes hs.busBuilt hrun (memRead_device hsound hp ht hlow hhigh)⟩

end Sys2Proof.Machine
end

section
/-! PROOFS. What an instruction means once its register fields name registers, said once for all 109 instructions, and
the rules that only ask for its kind: bad registers, protected destinations, the bus switched off, and that every step
answers a state (10_state.md section 3; 30_encoding.md section 4; 60_exceptions.md sections 2 and 3). -/

namespace Sys2Proof.Machine

/-! ## The run mode and the system mode replaced -/

/-- The state with another run mode and another system mode. -/
def State.withModes (s : State) (r : RunMode) (m : BitVec 24) : State := { s with runmode := r, sysmode := m }

/-- A value computed from the state that does not look at the run mode and the system mode. -/
def ModeBlind {α : Type} (v : State → α) : Prop := ∀ s r m, v (State.withModes s r m) = v s

/-! ## Meanings -/

/-- What instruction `i`, whose register fields name registers, does with a state: one of the shared operations, with
the instruction's destinations and whether it uses the bus. -/
inductive Meaning (i : Instr) : (State → Answer State) → Prop where
  | write (X : Reg) (v : State → Word) (hd : i.destinations = [X.number]) (hb : i.usesBus = false)
      (hv : ModeBlind v := by exact fun _ _ _ => rfl) : Meaning i fun s => writeOperand s X (v s)
  | move (X Y : Reg) (hd : i.destinations = [X.number, Y.number]) (hb : i.usesBus = false) :
      Meaning i fun s => withWritable s X <| withWritable s Y <| withSpRange s X (s.operand .y Y) <|
        .next ((s.setReg X (s.operand .y Y)).setReg Y 0)
  | divided (X : Reg) (b v : State → Int) (hd : i.destinations = [X.number]) (hb : i.usesBus = false)
      (hv : ModeBlind fun s => (b s, v s) := by exact fun _ _ _ => rfl) :
      Meaning i fun s => writeDivided s X (b s) (v s)
  | remainder (X : Reg) (a b : State → Int) (hd : i.destinations = [X.number]) (hb : i.usesBus = false)
      (hv : ModeBlind fun s => (a s, b s) := by exact fun _ _ _ => rfl) :
      Meaning i fun s => writeRemainder s X (a s) (b s)
  | load (X : Reg) (ea : State → Word) (n : Width) (hd : i.destinations = [X.number]) (hb : i.usesBus = true)
      (hv : ModeBlind ea := by exact fun _ _ _ => rfl) : Meaning i fun s => loadInto s X (ea s) n
  | store (X : Reg) (ea : State → Word) (n : Width) (hd : i.destinations = []) (hb : i.usesBus = true)
      (hv : ModeBlind ea := by exact fun _ _ _ => rfl) : Meaning i fun s => storeFrom s X (ea s) n
  | push (X : Reg) (n : Width) (hd : i.destinations = []) (hb : i.usesBus = true) : Meaning i fun s => pushFrom s X n
  | pop (X : Reg) (n : Width) (hd : i.destinations = [X.number]) (hb : i.usesBus = true) :
      Meaning i fun s => popInto s X n
  | call (n : BitVec 24) (hd : i.destinations = []) (hb : i.usesBus = true) : Meaning i (execCall n)
  | ret (hd : i.destinations = []) (hb : i.usesBus = true) : Meaning i execRet
  | product (p : State → BitVec 64) (hd : i.destinations = []) (hb : i.usesBus = false)
      (hv : ModeBlind p := by exact fun _ _ _ => rfl) : Meaning i fun s => writeProduct s (p s)
  | quotient (b q r : State → Int) (hd : i.destinations = []) (hb : i.usesBus = false)
      (hv : ModeBlind fun s => (b s, q s, r s) := by exact fun _ _ _ => rfl) :
      Meaning i fun s => writeQuotient s (b s) (q s) (r s)
  | compare (a b : State → Int) (hd : i.destinations = []) (hb : i.usesBus = false)
      (hv : ModeBlind fun s => (a s, b s) := by exact fun _ _ _ => rfl) : Meaning i fun s => writeCmp s (a s) (b s)
  | jump (taken : State → Bool) (offset : State → Int) (hd : i.destinations = []) (hb : i.usesBus = false)
      (hv : ModeBlind fun s => (taken s, offset s) := by exact fun _ _ _ => rfl) :
      Meaning i fun s => jumpIf s (taken s) (offset s)
  | runMode (n : BitVec 24) (hd : i.destinations = []) (hb : i.usesBus = false) : Meaning i (execCrm n)
  | wake (n : BitVec 24) (hd : i.destinations = []) (hb : i.usesBus = false) : Meaning i (execWake n)
  | control (g : State → State) (hd : i.destinations = []) (hb : i.usesBus = false)
      (hg : ∀ s r m, ∃ r' m', g (State.withModes s r m) = (g s).withModes r' m') : Meaning i fun s => .next (g s)

/-- An instruction with a bad register field is reported, and any other one has a meaning. -/
structure Meant (i : Instr) : Prop where
  bad : i.wellFormed = false → ∀ s, exec i s = signalError s .badRegister s.ir
  good : i.wellFormed = true → Meaning i (exec i)

section

theorem meant_none {i : Instr} (hfields : i.regFields = []) (hm : Meaning i (exec i)) : Meant i :=
  ⟨fun h => by simp [Instr.wellFormed, hfields] at h, fun _ => hm⟩

theorem meant_r {mk : RegNumber → Instr} {k : State → Reg → Answer State} (hfields : ∀ x, (mk x).regFields = [x])
    (hexec : ∀ x s, exec (mk x) s = withReg s x (k s)) (hm : ∀ X : Reg, Meaning (mk X.number) fun s => k s X)
    (x : RegNumber) : Meant (mk x) where
  bad h s := by
    rw [Instr.wellFormed, hfields, List.all_cons, List.all_nil, Bool.and_true] at h
    rw [hexec, withReg_invalid h]
  good h := by
    rw [Instr.wellFormed, hfields, List.all_cons, List.all_nil, Bool.and_true] at h
    obtain ⟨X, hX⟩ := Reg.exists_of_valid h
    obtain rfl := Reg.number_of_ofNumber hX
    have hmk : exec (mk X.number) = fun s => k s X := funext fun s => by rw [hexec, withReg_number]
    exact hmk ▸ hm X

theorem meant_rr {mk : RegNumber → RegNumber → Instr} {k : State → Reg → Reg → Answer State}
    (hfields : ∀ x y, (mk x y).regFields = [x, y]) (hexec : ∀ x y s, exec (mk x y) s = withReg2 s x y (k s))
    (hm : ∀ X Y : Reg, Meaning (mk X.number Y.number) fun s => k s X Y) (x y : RegNumber) : Meant (mk x y) where
  bad h s := by
    rw [Instr.wellFormed, hfields, List.all_cons, List.all_cons, List.all_nil, Bool.and_true,
      Bool.and_eq_false_iff] at h
    rw [hexec, withReg2_invalid h]
  good h := by
    rw [Instr.wellFormed, hfields, List.all_cons, List.all_cons, List.all_nil, Bool.and_true, Bool.and_eq_true] at h
    obtain ⟨X, hX⟩ := Reg.exists_of_valid h.1
    obtain ⟨Y, hY⟩ := Reg.exists_of_valid h.2
    obtain rfl := Reg.number_of_ofNumber hX
    obtain rfl := Reg.number_of_ofNumber hY
    have hmk : exec (mk X.number Y.number) = fun s => k s X Y := funext fun s => by rw [hexec, withReg2_number]
    exact hmk ▸ hm X Y

theorem meant_rrr {mk : RegNumber → RegNumber → RegNumber → Instr} {k : State → Reg → Reg → Reg → Answer State}
    (hfields : ∀ x y z, (mk x y z).regFields = [x, y, z])
    (hexec : ∀ x y z s, exec (mk x y z) s = withReg3 s x y z (k s))
    (hm : ∀ X Y Z : Reg, Meaning (mk X.number Y.number Z.number) fun s => k s X Y Z) (x y z : RegNumber) :
    Meant (mk x y z) where
  bad h s := by
    simp only [Instr.wellFormed, hfields, List.all_cons, List.all_nil, Bool.and_true, Bool.and_eq_false_iff] at h
    rw [hexec, withReg3_invalid h]
  good h := by
    simp only [Instr.wellFormed, hfields, List.all_cons, List.all_nil, Bool.and_true, Bool.and_eq_true] at h
    obtain ⟨hx, hy, hz⟩ := h
    obtain ⟨X, hX⟩ := Reg.exists_of_valid hx
    obtain ⟨Y, hY⟩ := Reg.exists_of_valid hy
    obtain ⟨Z, hZ⟩ := Reg.exists_of_valid hz
    obtain rfl := Reg.number_of_ofNumber hX
    obtain rfl := Reg.number_of_ofNumber hY
    obtain rfl := Reg.number_of_ofNumber hZ
    have hmk : exec (mk X.number Y.number Z.number) = fun s => k s X Y Z :=
      funext fun s => by rw [hexec, withReg3_number]
    exact hmk ▸ hm X Y Z

end

/-- Every instruction is checked for bad registers first and then is one of the shared operations. -/
theorem meant : ∀ i : Instr, Meant i
  | .nop => meant_none rfl (.control _ rfl rfl fun _ r m => ⟨r, m, rfl⟩)
  | .rst => meant_none rfl (.control _ rfl rfl fun _ r m => ⟨r, m, rfl⟩)
  | .crm n => meant_none rfl (.runMode _ rfl rfl)
  | .csm n => meant_none rfl (.control _ rfl rfl fun _ r _ => ⟨r, n, rfl⟩)
  | .die => meant_none rfl (.control _ rfl rfl fun _ r m => ⟨r, m, rfl⟩)
  | .rsr => meant_none rfl (.control _ rfl rfl fun _ _ _ => ⟨.normal, 0, rfl⟩)
  | .autsm => meant_none rfl (.control _ rfl rfl fun _ r m => ⟨r, m, rfl⟩)
  | .socl => meant_none rfl (.control _ rfl rfl fun _ r m => ⟨r, m, rfl⟩)
  | .hate => meant_none rfl (.control _ rfl rfl fun _ r m => ⟨r, m, rfl⟩)
  | .trst => meant_none rfl (.control _ rfl rfl fun _ r m => ⟨r, m, rfl⟩)
  | .zmb => meant_none rfl (.control _ rfl rfl fun _ r m => ⟨r, m, rfl⟩)
  | .aliv => meant_none rfl (.control _ rfl rfl fun _ r m => ⟨r, m, rfl⟩)
  | .set x n => meant_r (mk := (.set · n)) (fun _ => rfl) (fun _ _ => rfl) (fun X => .write X _ rfl rfl) x
  | .setu x n => meant_r (mk := (.setu · n)) (fun _ => rfl) (fun _ _ => rfl) (fun X => .write X _ rfl rfl) x
  | .copy x y => meant_rr (fun _ _ => rfl) (fun _ _ _ => rfl) (fun X _ => .write X _ rfl rfl) x y
  | .move x y => meant_rr (fun _ _ => rfl) (fun _ _ _ => rfl) (fun X Y => .move X Y rfl rfl) x y
  | .lb x y z => meant_rrr (fun _ _ _ => rfl) (fun _ _ _ _ => rfl) (fun X _ _ => .load X _ _ rfl rfl) x y z
  | .lbu x y z => meant_rrr (fun _ _ _ => rfl) (fun _ _ _ _ => rfl) (fun X _ _ => .load X _ _ rfl rfl) x y z
  | .lh x y z => meant_rrr (fun _ _ _ => rfl) (fun _ _ _ _ => rfl) (fun X _ _ => .load X _ _ rfl rfl) x y z
  | .lhu x y z => meant_rrr (fun _ _ _ => rfl) (fun _ _ _ _ => rfl) (fun X _ _ => .load X _ _ rfl rfl) x y z
  | .lw x y z => meant_rrr (fun _ _ _ => rfl) (fun _ _ _ _ => rfl) (fun X _ _ => .load X _ _ rfl rfl) x y z
  | .lwu x y z => meant_rrr (fun _ _ _ => rfl) (fun _ _ _ _ => rfl) (fun X _ _ => .load X _ _ rfl rfl) x y z
  | .lbi x y n => meant_rr (mk := (.lbi · · n)) (fun _ _ => rfl) (fun _ _ _ => rfl) (fun X _ => .load X _ _ rfl rfl) x y
  | .lbui x y n => meant_rr (mk := (.lbui · · n)) (fun _ _ => rfl) (fun _ _ _ => rfl)
      (fun X _ => .load X _ _ rfl rfl) x y
  | .lhi x y n => meant_rr (mk := (.lhi · · n)) (fun _ _ => rfl) (fun _ _ _ => rfl) (fun X _ => .load X _ _ rfl rfl) x y
  | .lhui x y n => meant_rr (mk := (.lhui · · n)) (fun _ _ => rfl) (fun _ _ _ => rfl)
      (fun X _ => .load X _ _ rfl rfl) x y
  | .lwi x y n => meant_rr (mk := (.lwi · · n)) (fun _ _ => rfl) (fun _ _ _ => rfl) (fun X _ => .load X _ _ rfl rfl) x y
  | .lwui x y n => meant_rr (mk := (.lwui · · n)) (fun _ _ => rfl) (fun _ _ _ => rfl)
      (fun X _ => .load X _ _ rfl rfl) x y
  | .sb x y z => meant_rrr (fun _ _ _ => rfl) (fun _ _ _ _ => rfl) (fun X _ _ => .store X _ _ rfl rfl) x y z
  | .sbu x y z => meant_rrr (fun _ _ _ => rfl) (fun _ _ _ _ => rfl) (fun X _ _ => .store X _ _ rfl rfl) x y z
  | .sh x y z => meant_rrr (fun _ _ _ => rfl) (fun _ _ _ _ => rfl) (fun X _ _ => .store X _ _ rfl rfl) x y z
  | .shu x y z => meant_rrr (fun _ _ _ => rfl) (fun _ _ _ _ => rfl) (fun X _ _ => .store X _ _ rfl rfl) x y z
  | .sw x y z => meant_rrr (fun _ _ _ => rfl) (fun _ _ _ _ => rfl) (fun X _ _ => .store X _ _ rfl rfl) x y z
  | .swu x y z => meant_rrr (fun _ _ _ => rfl) (fun _ _ _ _ => rfl) (fun X _ _ => .store X _ _ rfl rfl) x y z
  | .sbi x y n => meant_rr (mk := (.sbi · · n)) (fun _ _ => rfl) (fun _ _ _ => rfl)
      (fun X _ => .store X _ _ rfl rfl) x y
  | .sbui x y n => meant_rr (mk := (.sbui · · n)) (fun _ _ => rfl) (fun _ _ _ => rfl)
      (fun X _ => .store X _ _ rfl rfl) x y
  | .shi x y n => meant_rr (mk := (.shi · · n)) (fun _ _ => rfl) (fun _ _ _ => rfl)
      (fun X _ => .store X _ _ rfl rfl) x y
  | .shui x y n => meant_rr (mk := (.shui · · n)) (fun _ _ => rfl) (fun _ _ _ => rfl)
      (fun X _ => .store X _ _ rfl rfl) x y
  | .swi x y n => meant_rr (mk := (.swi · · n)) (fun _ _ => rfl) (fun _ _ _ => rfl)
      (fun X _ => .store X _ _ rfl rfl) x y
  | .swui x y n => meant_rr (mk := (.swui · · n)) (fun _ _ => rfl) (fun _ _ _ => rfl)
      (fun X _ => .store X _ _ rfl rfl) x y
  | .pushb x => meant_r (fun _ => rfl) (fun _ _ => rfl) (fun X => .push X _ rfl rfl) x
  | .pushh x => meant_r (fun _ => rfl) (fun _ _ => rfl) (fun X => .push X _ rfl rfl) x
  | .push x => meant_r (fun _ => rfl) (fun _ _ => rfl) (fun X => .push X _ rfl rfl) x
  | .popb x => meant_r (fun _ => rfl) (fun _ _ => rfl) (fun X => .pop X _ rfl rfl) x
  | .poph x => meant_r (fun _ => rfl) (fun _ _ => rfl) (fun X => .pop X _ rfl rfl) x
  | .pop x => meant_r (fun _ => rfl) (fun _ _ => rfl) (fun X => .pop X _ rfl rfl) x
  | .add x y z => meant_rrr (fun _ _ _ => rfl) (fun _ _ _ _ => rfl) (fun X _ _ => .write X _ rfl rfl) x y z
  | .addu x y z => meant_rrr (fun _ _ _ => rfl) (fun _ _ _ _ => rfl) (fun X _ _ => .write X _ rfl rfl) x y z
  | .addi x y n => meant_rr (mk := (.addi · · n)) (fun _ _ => rfl) (fun _ _ _ => rfl)
      (fun X _ => .write X _ rfl rfl) x y
  | .addiu x y n => meant_rr (mk := (.addiu · · n)) (fun _ _ => rfl) (fun _ _ _ => rfl)
      (fun X _ => .write X _ rfl rfl) x y
  | .sub x y z => meant_rrr (fun _ _ _ => rfl) (fun _ _ _ _ => rfl) (fun X _ _ => .write X _ rfl rfl) x y z
  | .subu x y z => meant_rrr (fun _ _ _ => rfl) (fun _ _ _ _ => rfl) (fun X _ _ => .write X _ rfl rfl) x y z
  | .subi x y n => meant_rr (mk := (.subi · · n)) (fun _ _ => rfl) (fun _ _ _ => rfl)
      (fun X _ => .write X _ rfl rfl) x y
  | .subiu x y n => meant_rr (mk := (.subiu · · n)) (fun _ _ => rfl) (fun _ _ _ => rfl)
      (fun X _ => .write X _ rfl rfl) x y
  | .mul x y => meant_rr (fun _ _ => rfl) (fun _ _ _ => rfl) (fun _ _ => .product _ rfl rfl) x y
  | .mulu x y => meant_rr (fun _ _ => rfl) (fun _ _ _ => rfl) (fun _ _ => .product _ rfl rfl) x y
  | .muli x n => meant_r (mk := (.muli · n)) (fun _ => rfl) (fun _ _ => rfl) (fun _ => .product _ rfl rfl) x
  | .muliu x n => meant_r (mk := (.muliu · n)) (fun _ => rfl) (fun _ _ => rfl) (fun _ => .product _ rfl rfl) x
  | .muld x y z => meant_rrr (fun _ _ _ => rfl) (fun _ _ _ _ => rfl) (fun X _ _ => .write X _ rfl rfl) x y z
  | .div x y => meant_rr (fun _ _ => rfl) (fun _ _ _ => rfl) (fun _ _ => .quotient _ _ _ rfl rfl) x y
  | .divu x y => meant_rr (fun _ _ => rfl) (fun _ _ _ => rfl) (fun _ _ => .quotient _ _ _ rfl rfl) x y
  | .divi x n => meant_r (mk := (.divi · n)) (fun _ => rfl) (fun _ _ => rfl) (fun _ => .quotient _ _ _ rfl rfl) x
  | .diviu x n => meant_r (mk := (.diviu · n)) (fun _ => rfl) (fun _ _ => rfl) (fun _ => .quotient _ _ _ rfl rfl) x
  | .divd x y z => meant_rrr (fun _ _ _ => rfl) (fun _ _ _ _ => rfl) (fun X _ _ => .divided X _ _ rfl rfl) x y z
  | .mod x y z => meant_rrr (fun _ _ _ => rfl) (fun _ _ _ _ => rfl) (fun X _ _ => .remainder X _ _ rfl rfl) x y z
  | .modi x y n => meant_rr (mk := (.modi · · n)) (fun _ _ => rfl) (fun _ _ _ => rfl)
      (fun X _ => .remainder X _ _ rfl rfl) x y
  | .abs x y => meant_rr (fun _ _ => rfl) (fun _ _ _ => rfl) (fun X _ => .write X _ rfl rfl) x y
  | .neg x y => meant_rr (fun _ _ => rfl) (fun _ _ _ => rfl) (fun X _ => .write X _ rfl rfl) x y
  | .inc x => meant_r (fun _ => rfl) (fun _ _ => rfl) (fun X => .write X _ rfl rfl) x
  | .dec x => meant_r (fun _ => rfl) (fun _ _ => rfl) (fun X => .write X _ rfl rfl) x
  | .and x y z => meant_rrr (fun _ _ _ => rfl) (fun _ _ _ _ => rfl) (fun X _ _ => .write X _ rfl rfl) x y z
  | .andi x y n => meant_rr (mk := (.andi · · n)) (fun _ _ => rfl) (fun _ _ _ => rfl)
      (fun X _ => .write X _ rfl rfl) x y
  | .or x y z => meant_rrr (fun _ _ _ => rfl) (fun _ _ _ _ => rfl) (fun X _ _ => .write X _ rfl rfl) x y z
  | .ori x y n => meant_rr (mk := (.ori · · n)) (fun _ _ => rfl) (fun _ _ _ => rfl) (fun X _ => .write X _ rfl rfl) x y
  | .xor x y z => meant_rrr (fun _ _ _ => rfl) (fun _ _ _ _ => rfl) (fun X _ _ => .write X _ rfl rfl) x y z
  | .xori x y n => meant_rr (mk := (.xori · · n)) (fun _ _ => rfl) (fun _ _ _ => rfl)
      (fun X _ => .write X _ rfl rfl) x y
  | .not x y => meant_rr (fun _ _ => rfl) (fun _ _ _ => rfl) (fun X _ => .write X _ rfl rfl) x y
  | .noti x n => meant_r (mk := (.noti · n)) (fun _ => rfl) (fun _ _ => rfl) (fun X => .write X _ rfl rfl) x
  | .nand x y z => meant_rrr (fun _ _ _ => rfl) (fun _ _ _ _ => rfl) (fun X _ _ => .write X _ rfl rfl) x y z
  | .nandi x y n => meant_rr (mk := (.nandi · · n)) (fun _ _ => rfl) (fun _ _ _ => rfl)
      (fun X _ => .write X _ rfl rfl) x y
  | .nor x y z => meant_rrr (fun _ _ _ => rfl) (fun _ _ _ _ => rfl) (fun X _ _ => .write X _ rfl rfl) x y z
  | .nori x y n => meant_rr (mk := (.nori · · n)) (fun _ _ => rfl) (fun _ _ _ => rfl)
      (fun X _ => .write X _ rfl rfl) x y
  | .shl x y z => meant_rrr (fun _ _ _ => rfl) (fun _ _ _ _ => rfl) (fun X _ _ => .write X _ rfl rfl) x y z
  | .shli x y n => meant_rr (mk := (.shli · · n)) (fun _ _ => rfl) (fun _ _ _ => rfl)
      (fun X _ => .write X _ rfl rfl) x y
  | .shr x y z => meant_rrr (fun _ _ _ => rfl) (fun _ _ _ _ => rfl) (fun X _ _ => .write X _ rfl rfl) x y z
  | .shri x y n => meant_rr (mk := (.shri · · n)) (fun _ _ => rfl) (fun _ _ _ => rfl)
      (fun X _ => .write X _ rfl rfl) x y
  | .shra x y z => meant_rrr (fun _ _ _ => rfl) (fun _ _ _ _ => rfl) (fun X _ _ => .write X _ rfl rfl) x y z
  | .shrai x y n => meant_rr (mk := (.shrai · · n)) (fun _ _ => rfl) (fun _ _ _ => rfl)
      (fun X _ => .write X _ rfl rfl) x y
  | .rotl x y z => meant_rrr (fun _ _ _ => rfl) (fun _ _ _ _ => rfl) (fun X _ _ => .write X _ rfl rfl) x y z
  | .rotli x y n => meant_rr (mk := (.rotli · · n)) (fun _ _ => rfl) (fun _ _ _ => rfl)
      (fun X _ => .write X _ rfl rfl) x y
  | .rotr x y z => meant_rrr (fun _ _ _ => rfl) (fun _ _ _ _ => rfl) (fun X _ _ => .write X _ rfl rfl) x y z
  | .rotri x y n => meant_rr (mk := (.rotri · · n)) (fun _ _ => rfl) (fun _ _ _ => rfl)
      (fun X _ => .write X _ rfl rfl) x y
  | .cmp x y => meant_rr (fun _ _ => rfl) (fun _ _ _ => rfl) (fun _ _ => .compare _ _ rfl rfl) x y
  | .cmpu x y => meant_rr (fun _ _ => rfl) (fun _ _ _ => rfl) (fun _ _ => .compare _ _ rfl rfl) x y
  | .cmpi x n => meant_r (mk := (.cmpi · n)) (fun _ => rfl) (fun _ _ => rfl) (fun _ => .compare _ _ rfl rfl) x
  | .cmpiu x n => meant_r (mk := (.cmpiu · n)) (fun _ => rfl) (fun _ _ => rfl) (fun _ => .compare _ _ rfl rfl) x
  | .be n => meant_none rfl (.jump _ _ rfl rfl)
  | .bne n => meant_none rfl (.jump _ _ rfl rfl)
  | .bl n => meant_none rfl (.jump _ _ rfl rfl)
  | .ble n => meant_none rfl (.jump _ _ rfl rfl)
  | .bg n => meant_none rfl (.jump _ _ rfl rfl)
  | .bge n => meant_none rfl (.jump _ _ rfl rfl)
  | .jmp n => meant_none rfl (.jump _ _ rfl rfl)
  | .jmpr x => meant_r (fun _ => rfl) (fun _ _ => rfl) (fun _ => .jump _ _ rfl rfl) x
  | .go n => meant_none rfl (.control _ rfl rfl fun _ r m => ⟨r, m, rfl⟩)
  | .call n => meant_none rfl (.call _ rfl rfl)
  | .ret => meant_none rfl (.ret rfl rfl)
  | .wake n => meant_none rfl (.wake _ rfl rfl)
  | .kill => meant_none rfl (.control _ rfl rfl fun _ r m => ⟨r, m, rfl⟩)

theorem exec_of_not_wellFormed {i : Instr} (h : i.wellFormed = false) (s : State) :
    exec i s = signalError s .badRegister s.ir := (meant i).bad h s

/-- Settles O14: every register field is checked before anything else. -/
theorem badRegistersAreReported : Obligations.BadRegistersAreReported := by
  intro i s h hp
  rw [exec_of_not_wellFormed h]
  exact signalError_reports _ fun _ => hp

/-! ## Protected destinations -/

section

variable {i : Instr} {f : State → Answer State}

theorem Reg.eq_of_find?_protected {X : Reg} {x : RegNumber}
    (h : [X.number].find? (fun r => r ∈ Claims.protectedNumbers) = some x) :
    X.writeProtected = true ∧ x = X.number := by
  rw [List.find?_singleton] at h
  split at h
  · next hX =>
    cases h
    exact ⟨(Reg.writeProtected_iff X).2 (by simpa using hX), rfl⟩
  · cases h

/-- The first protected destination is reported before any value is read (R36, R349). -/
theorem Meaning.protected (h : Meaning i f) {s : State} (hbus : i.usesBus = true → s.busOn = true) {x : RegNumber}
    (hx : i.destinations.find? (fun r => r ∈ Claims.protectedNumbers) = some x) :
    f s = signalError s .writeProtected (x.setWidth 32) := by
  cases h with
  | write X v hd =>
    obtain ⟨hp, rfl⟩ := Reg.eq_of_find?_protected (hd ▸ hx)
    exact withWritable_protected hp _
  | divided X b v hd =>
    obtain ⟨hp, rfl⟩ := Reg.eq_of_find?_protected (hd ▸ hx)
    exact withWritable_protected hp _
  | remainder X a b hd =>
    obtain ⟨hp, rfl⟩ := Reg.eq_of_find?_protected (hd ▸ hx)
    exact withWritable_protected hp _
  | load X ea n hd hb =>
    obtain ⟨hp, rfl⟩ := Reg.eq_of_find?_protected (hd ▸ hx)
    exact (withBus_on (hbus hb) _).trans (withWritable_protected hp _)
  | pop X n hd hb =>
    obtain ⟨hp, rfl⟩ := Reg.eq_of_find?_protected (hd ▸ hx)
    exact (withBus_on (hbus hb) _).trans (withWritable_protected hp _)
  | move X Y hd =>
    rw [hd, List.find?_cons] at hx
    cases hX : X.writeProtected with
    | true =>
      have hmem : X.number ∈ Claims.protectedNumbers := (Reg.writeProtected_iff X).1 hX
      simp only [hmem, decide_true, Option.some.injEq] at hx
      exact hx ▸ withWritable_protected hX _
    | false =>
      have hmem : X.number ∉ Claims.protectedNumbers := by
        rw [← Reg.writeProtected_iff, hX]
        exact Bool.false_ne_true
      simp only [hmem, decide_false] at hx
      obtain ⟨hp, rfl⟩ := Reg.eq_of_find?_protected hx
      exact (withWritable_ok hX _).trans (withWritable_protected hp _)
  | store X ea n hd => cases hd ▸ hx
  | push X n hd => cases hd ▸ hx
  | call n hd => cases hd ▸ hx
  | ret hd => cases hd ▸ hx
  | product p hd => cases hd ▸ hx
  | quotient b q r hd => cases hd ▸ hx
  | compare a b hd => cases hd ▸ hx
  | jump taken offset hd => cases hd ▸ hx
  | runMode n hd => cases hd ▸ hx
  | wake n hd => cases hd ▸ hx
  | control g hd => cases hd ▸ hx

/-- While the bus is off an instruction of the bus does nothing (R31). -/
theorem Meaning.idle (h : Meaning i f) (hb : i.usesBus = true) {s : State} (hoff : s.busOn = false) :
    f s = .next s := by
  cases h with
  | load => exact withBus_off hoff _
  | store => exact withBus_off hoff _
  | push => exact withBus_off hoff _
  | pop => exact withBus_off hoff _
  | call n =>
    unfold execCall
    exact withBus_off hoff _
  | ret =>
    unfold execRet
    exact withBus_off hoff _
  | write X v _ hb' => cases hb.symm.trans hb'
  | move X Y _ hb' => cases hb.symm.trans hb'
  | divided X b v _ hb' => cases hb.symm.trans hb'
  | remainder X a b _ hb' => cases hb.symm.trans hb'
  | product p _ hb' => cases hb.symm.trans hb'
  | quotient b q r _ hb' => cases hb.symm.trans hb'
  | compare a b _ hb' => cases hb.symm.trans hb'
  | jump taken offset _ hb' => cases hb.symm.trans hb'
  | runMode n _ hb' => cases hb.symm.trans hb'
  | wake n _ hb' => cases hb.symm.trans hb'
  | control g _ hb' => cases hb.symm.trans hb'

end

theorem exec_of_protected {i : Instr} (hw : i.wellFormed = true) {s : State} (hbus : i.usesBus = true → s.busOn = true)
    {x : RegNumber} (hx : i.destinations.find? (fun r => r ∈ Claims.protectedNumbers) = some x) :
    exec i s = signalError s .writeProtected (x.setWidth 32) :=
  ((meant i).good hw).protected hbus hx

/-- Settles O15: the destination check comes first after the bus guard, X before Y. -/
theorem protectedDestinationsAreReported : Obligations.ProtectedDestinationsAreReported := by
  intro i s x hw hp hbus hx
  rw [exec_of_protected hw hbus hx]
  exact signalError_reports _ fun _ => hp

/-- Settles O17: the bus guard comes first in every meaning that uses the bus. -/
theorem busInstructionsIdleWhileBusOff : Obligations.BusInstructionsIdleWhileBusOff :=
  fun i _ hb hw hoff => ((meant i).good hw).idle hb hoff

/-! ## Every step answers a state -/

/-- The answer is a state while the protection mechanisms of `s` are on, and is never a refusal. -/
structure Answers (s : State) (a : Answer State) : Prop where
  next : s.protectOn = true → ∃ t, a = .next t
  notRefused : ∀ r, a ≠ .refused r

section

variable {s : State}

theorem answers_next (t : State) : Answers s (.next t) := ⟨fun _ => ⟨t, rfl⟩, fun _ h => by cases h⟩

theorem answers_signalError (e : ErrorCause) (info : Word) : Answers s (signalError s e info) where
  next hp := ⟨_, signalError_eq info fun _ => hp⟩
  notRefused r h := by
    unfold signalError at h
    split at h <;> cases h

theorem answers_withBus {k : Answer State} (hk : Answers s k) : Answers s (withBus s k) := by
  unfold withBus
  split
  · exact hk
  · exact answers_next s

theorem answers_withWritable (X : Reg) {k : Answer State} (hk : Answers s k) : Answers s (withWritable s X k) := by
  unfold withWritable
  split
  · exact answers_signalError _ _
  · exact hk

theorem answers_withSpRange (X : Reg) (v : Word) {k : Answer State} (hk : Answers s k) :
    Answers s (withSpRange s X v k) := by
  unfold withSpRange
  split
  · exact answers_signalError _ _
  · exact hk

theorem answers_raiseSp (s1 : State) (n : Width) : Answers s (raiseSp s s1 n) :=
  answers_withSpRange _ _ (answers_next _)

/-- A division reports a divisor of zero or goes on. -/
theorem answers_divisor (b : Int) (info : Word) {k : Answer State} (hk : Answers s k) :
    Answers s (if b = 0 then signalError s .divideByZero info else k) := by
  split
  · exact answers_signalError _ _
  · exact hk

/-- Every meaning answers: it ends in a state or in an error, and an error is a fault only while the protection
mechanisms are off (R360). -/
theorem Meaning.answers {i : Instr} {f : State → Answer State} (h : Meaning i f) (s : State) : Answers s (f s) := by
  cases h with
  | write X v => exact answers_withWritable X (answers_withSpRange X _ (answers_next _))
  | move X Y =>
    exact answers_withWritable X (answers_withWritable Y (answers_withSpRange X _ (answers_next _)))
  | divided X b v =>
    exact answers_withWritable X (answers_divisor (b s) s.ir (answers_withSpRange X _ (answers_next _)))
  | remainder X a b =>
    exact answers_withWritable X (answers_divisor (b s) s.ir (answers_withSpRange X _ (answers_next _)))
  | load X ea n =>
    refine answers_withBus (answers_withWritable X ?_)
    split
    · exact answers_signalError _ _
    · exact answers_withSpRange X _ (answers_next _)
  | store X ea n =>
    refine answers_withBus ?_
    split
    · exact answers_signalError _ _
    · exact answers_next _
  | push X n =>
    refine answers_withBus (answers_withSpRange .sp _ ?_)
    split
    · exact answers_signalError _ _
    · exact answers_next _
  | pop X n =>
    refine answers_withBus (answers_withWritable X ?_)
    split
    · exact answers_signalError _ _
    · exact answers_withSpRange X _ (answers_raiseSp _ n)
  | call n =>
    unfold execCall
    refine answers_withBus (answers_withSpRange .sp _ ?_)
    split
    · exact answers_signalError _ _
    · exact answers_next _
  | ret =>
    unfold execRet
    refine answers_withBus ?_
    split
    · exact answers_signalError _ _
    · exact answers_raiseSp _ .word
  | quotient b q r => exact answers_divisor (b s) s.ir (answers_next _)
  | runMode n =>
    unfold execCrm
    split
    · exact answers_next _
    · split
      · exact answers_next _
      · exact answers_signalError _ _
  | product => exact answers_next _
  | compare => exact answers_next _
  | jump => exact answers_next _
  | wake => exact answers_next _
  | control => exact answers_next _

theorem exec_answers (i : Instr) (s : State) : Answers s (exec i s) := by
  cases hw : i.wellFormed with
  | true => exact ((meant i).good hw).answers s
  | false =>
    rw [exec_of_not_wellFormed hw]
    exact answers_signalError _ _

theorem executeWord_answers (s : State) (w : Word) : Answers s (executeWord s w) := by
  unfold executeWord
  split
  · exact answers_next s
  · split
    · exact exec_answers _ s
    · exact answers_signalError _ _

/-- A fetch does not switch the protection mechanisms, so the step answers where EXECUTE does. -/
theorem step_answers (s : State) : Answers s (step s) := by
  cases hpower : s.power with
  | running =>
    rcases step_running hpower with ⟨_, hstep⟩ | ⟨w, s1, hfetch, hstep⟩
    · rw [hstep]
      exact answers_next _
    · obtain ⟨hnext, hrefused⟩ := executeWord_answers (s1.fetched w) w
      have hprotect : (s1.fetched w).protectOn = s.protectOn := (afterRead hfetch).sameModes.protectOn
      rw [hstep]
      exact ⟨fun hp => hnext (hprotect.trans hp), hrefused⟩
  | _ =>
    rw [stoppedMachineStays s (by simp [hpower])]
    exact answers_next s

end

/-- Settles O24: every meaning and every check ends in a state or in an error. -/
theorem stepsAnswerAState : Obligations.StepsAnswerAState :=
  ⟨fun s => (step_answers s).next, fun s => (step_answers s).notRefused⟩

end Sys2Proof.Machine
end

section
/-! PROOFS. The run mode and the system mode influence nothing but themselves (10_state.md section 3, decisions D22 and
D32): every operation commutes with replacing the two. -/

namespace Sys2Proof.Machine

/-- An answer with its next state, where it has one, replaced by a function of it. -/
def mapNext (g : State → State) : Answer State → Answer State
  | .next t => .next (g t)
  | .fault r => .fault r
  | .refused r => .refused r

section

variable (s : State) (r : RunMode) (m : BitVec 24)

/-- The answer with the two modes replaced in its next state. -/
abbrev withModesNext (a : Answer State) : Answer State := mapNext (State.withModes · r m) a

/-! ## The checks -/

theorem setReg_withModes (X : Reg) (v : Word) : (s.withModes r m).setReg X v = (s.setReg X v).withModes r m := by
  cases X <;> rfl

theorem operand_withModes (slot : Slot) (X : Reg) : (s.withModes r m).operand slot X = s.operand slot X := by
  cases X <;> rfl

theorem signalError_withModes (e : ErrorCause) (info : Word) :
    signalError (s.withModes r m) e info = withModesNext r m (signalError s e info) :=
  (apply_ite (withModesNext r m) ((e.isProtection && !s.protectOn) = true) (.fault (.protectionOff e))
    (.next (s.raise e info))).symm

theorem withBus_withModes (k : Answer State) :
    withBus (s.withModes r m) (withModesNext r m k) = withModesNext r m (withBus s k) :=
  (apply_ite (withModesNext r m) (s.busOn = true) k (.next s)).symm

theorem withWritable_withModes (X : Reg) (k : Answer State) :
    withWritable (s.withModes r m) X (withModesNext r m k) = withModesNext r m (withWritable s X k) := by
  rw [withWritable, withWritable, signalError_withModes]
  exact (apply_ite (withModesNext r m) _ _ _).symm

theorem withSpRange_withModes (X : Reg) (v : Word) (k : Answer State) :
    withSpRange (s.withModes r m) X v (withModesNext r m k) = withModesNext r m (withSpRange s X v k) := by
  rw [withSpRange, withSpRange, signalError_withModes]
  exact (apply_ite (withModesNext r m) _ _ _).symm

/-- A division reports a divisor of zero or goes on. -/
theorem divisor_withModes (b : Int) (k : Answer State) :
    (if b = 0 then signalError (s.withModes r m) .divideByZero (s.withModes r m).ir else withModesNext r m k) =
      withModesNext r m (if b = 0 then signalError s .divideByZero s.ir else k) := by
  rw [signalError_withModes]
  exact (apply_ite (withModesNext r m) _ _ _).symm

/-! ## The bus -/

theorem memRead_withModes (a : Word) (n : Width) :
    memRead (s.withModes r m) a n = (memRead s a n).map fun q => (q.1, q.2.withModes r m) := by
  by_cases ha : 0 ≤ signed a
  · rw [memRead, memRead, if_pos ha, if_pos ha]
    by_cases hend : a.toNat + n.bytes - 1 > 2 ^ 31 - 1
    · rw [if_pos hend, if_pos hend]
      rfl
    · rw [if_neg hend, if_neg hend, show (s.withModes r m).busPorts = s.busPorts from rfl]
      cases findPort s.busPorts a.toNat n.bytes with
      | none => rfl
      | some p =>
        by_cases ht : p.type = memoryType
        · simp only [if_pos ht]
          rfl
        · simp only [if_neg ht]
          rfl
  · rw [memRead, memRead, if_neg ha, if_neg ha, show tableRead (s.withModes r m) = tableRead s from rfl,
      Option.map_map]
    rfl

theorem memWrite_withModes (a : Word) (n : Width) (v : Word) :
    memWrite (s.withModes r m) a n v = (memWrite s a n v).map (State.withModes · r m) := by
  by_cases ha : signed a < 0
  · rw [memWrite, memWrite, if_pos ha, if_pos ha]
    rfl
  · rw [memWrite, memWrite, if_neg ha, if_neg ha]
    by_cases hend : a.toNat + n.bytes - 1 > 2 ^ 31 - 1
    · rw [if_pos hend, if_pos hend]
      rfl
    · rw [if_neg hend, if_neg hend, show (s.withModes r m).busPorts = s.busPorts from rfl]
      cases findPort s.busPorts a.toNat n.bytes with
      | none => rfl
      | some p =>
        by_cases ht : p.type = memoryType
        · simp only [if_pos ht]
          rfl
        · simp only [if_neg ht]
          rfl

theorem raiseSp_withModes (s1 : State) (n : Width) :
    raiseSp (s.withModes r m) (s1.withModes r m) n = withModesNext r m (raiseSp s s1 n) :=
  withSpRange_withModes s r m .sp _ (.next { s1 with sp := trunc32 (unsigned s1.sp + n.bytes) })

/-- CALL in the one reading that `CALLRET` can name (R320). -/
theorem execCall_eq (n : BitVec 24) : execCall n s = withBus s (withSpRange s .sp (pushTop s .word)
    ((memWrite { s with sp := pushTop s .word } (pushTop s .word) .word s.pc).elim
      (signalError s .busError (pushTop s .word)) fun s1 => .next { s1 with pc := zext n })) := by
  unfold execCall
  cases s.params.callRet
  cases memWrite { s with sp := pushTop s .word } (pushTop s .word) .word s.pc <;> rfl

/-- RET in the one reading that `CALLRET` can name (R321). -/
theorem execRet_eq : execRet s = withBus s ((memRead s s.sp .word).elim (signalError s .busError s.sp)
    fun q => raiseSp s { q.2 with pc := q.1 } .word) := by
  unfold execRet
  cases s.params.callRet
  cases memRead s s.sp .word <;> rfl

/-! ## The shared operations -/

theorem writeOperand_withModes (X : Reg) (v : Word) :
    writeOperand (s.withModes r m) X v = withModesNext r m (writeOperand s X v) := by
  rw [writeOperand, writeOperand, setReg_withModes, ← withWritable_withModes, ← withSpRange_withModes]
  rfl

theorem move_withModes (X Y : Reg) (v : Word) :
    (withWritable (s.withModes r m) X <| withWritable (s.withModes r m) Y <| withSpRange (s.withModes r m) X v <|
        .next (((s.withModes r m).setReg X v).setReg Y 0)) =
      withModesNext r m (withWritable s X <| withWritable s Y <| withSpRange s X v <|
        .next ((s.setReg X v).setReg Y 0)) := by
  rw [setReg_withModes, setReg_withModes, ← withWritable_withModes, ← withWritable_withModes, ← withSpRange_withModes]
  rfl

theorem writeDivided_withModes (X : Reg) (b v : Int) :
    writeDivided (s.withModes r m) X b v = withModesNext r m (writeDivided s X b v) := by
  rw [writeDivided, writeDivided, setReg_withModes, ← withWritable_withModes, ← divisor_withModes,
    ← withSpRange_withModes]
  rfl

theorem writeRemainder_withModes (X : Reg) (a b : Int) :
    writeRemainder (s.withModes r m) X a b = withModesNext r m (writeRemainder s X a b) := by
  have hset : (if (s.withModes r m).params.modWritesHiLo then (s.withModes r m).setQuotient (udiv a b) (urem a b)
      else s.withModes r m) =
      (if s.params.modWritesHiLo then s.setQuotient (udiv a b) (urem a b) else s).withModes r m :=
    (apply_ite (State.withModes · r m) (s.params.modWritesHiLo = true) (s.setQuotient (udiv a b) (urem a b)) s).symm
  rw [writeRemainder, writeRemainder, hset, setReg_withModes, ← withWritable_withModes, ← divisor_withModes,
    ← withSpRange_withModes]
  rfl

theorem loadInto_withModes (X : Reg) (ea : Word) (n : Width) :
    loadInto (s.withModes r m) X ea n = withModesNext r m (loadInto s X ea n) := by
  rw [loadInto, loadInto, ← withBus_withModes, ← withWritable_withModes, memRead_withModes, operand_withModes]
  congr 2
  cases memRead s ea n with
  | none => exact signalError_withModes s r m _ _
  | some q =>
    obtain ⟨v, s1⟩ := q
    simp only [Option.map_some, setReg_withModes, ← withSpRange_withModes]
    rfl

theorem storeFrom_withModes (X : Reg) (ea : Word) (n : Width) :
    storeFrom (s.withModes r m) X ea n = withModesNext r m (storeFrom s X ea n) := by
  rw [storeFrom, storeFrom, ← withBus_withModes, operand_withModes, memWrite_withModes]
  congr 1
  cases memWrite s ea n (s.operand .x X) with
  | none => exact signalError_withModes s r m _ _
  | some s1 => rfl

theorem pushFrom_withModes (X : Reg) (n : Width) :
    pushFrom (s.withModes r m) X n = withModesNext r m (pushFrom s X n) := by
  have hlowered : { s.withModes r m with sp := pushTop s n } = State.withModes { s with sp := pushTop s n } r m := rfl
  rw [pushFrom, pushFrom, ← withBus_withModes, ← withSpRange_withModes,
    show pushTop (s.withModes r m) n = pushTop s n from rfl, hlowered, operand_withModes, memWrite_withModes]
  congr 2
  cases memWrite { s with sp := pushTop s n } (pushTop s n) n (State.operand { s with sp := pushTop s n } .x X) with
  | none => exact signalError_withModes s r m _ _
  | some s1 => rfl

theorem popInto_withModes (X : Reg) (n : Width) :
    popInto (s.withModes r m) X n = withModesNext r m (popInto s X n) := by
  rw [popInto, popInto, ← withBus_withModes, ← withWritable_withModes,
    show (s.withModes r m).sp = s.sp from rfl, memRead_withModes, operand_withModes]
  congr 2
  cases memRead s s.sp n with
  | none => exact signalError_withModes s r m _ _
  | some q =>
    obtain ⟨v, s1⟩ := q
    simp only [Option.map_some, setReg_withModes, raiseSp_withModes]
    exact withSpRange_withModes s r m X _ _

theorem execCall_withModes (n : BitVec 24) :
    execCall n (s.withModes r m) = withModesNext r m (execCall n s) := by
  have hlowered : { s.withModes r m with sp := pushTop s .word } =
      State.withModes { s with sp := pushTop s .word } r m :=
    rfl
  rw [execCall_eq, execCall_eq, ← withBus_withModes, ← withSpRange_withModes,
    show pushTop (s.withModes r m) .word = pushTop s .word from rfl, hlowered, memWrite_withModes]
  congr 2
  rw [show (s.withModes r m).pc = s.pc from rfl]
  cases memWrite { s with sp := pushTop s .word } (pushTop s .word) .word s.pc with
  | none => exact signalError_withModes s r m _ _
  | some s1 => rfl

theorem execRet_withModes : execRet (s.withModes r m) = withModesNext r m (execRet s) := by
  rw [execRet_eq, execRet_eq, ← withBus_withModes, show (s.withModes r m).sp = s.sp from rfl, memRead_withModes]
  congr 1
  cases memRead s s.sp .word with
  | none => exact signalError_withModes s r m _ _
  | some q => exact raiseSp_withModes s r m { q.2 with pc := q.1 } .word

theorem writeQuotient_withModes (b q t : Int) :
    writeQuotient (s.withModes r m) b q t = withModesNext r m (writeQuotient s b q t) :=
  divisor_withModes s r m b (.next (s.setQuotient q t))

theorem jumpIf_withModes (taken : Bool) (offset : Int) :
    jumpIf (s.withModes r m) taken offset = withModesNext r m (jumpIf s taken offset) := by
  cases taken <;> rfl

/-! ## Instructions and steps -/

variable {s r m}

/-- An answer that commutes with replacing the two modes is the same next state but for them. -/
theorem inert_of_commutes {a a' : Answer State} {t : State} (hcomm : a' = withModesNext r m a) (ha : a = .next t) :
    ∃ r' m', a' = .next (t.withModes r' m') := ⟨r, m, by rw [hcomm, ha]; rfl⟩

/-- Every meaning commutes with replacing the two modes, but for CRM, WAKE and the instructions that set a field. -/
theorem Meaning.commutes {i : Instr} {f : State → Answer State} (h : Meaning i f) :
    (∀ s r m, f (State.withModes s r m) = withModesNext r m (f s)) ∨ (∃ n, f = execCrm n) ∨ (∃ n, f = execWake n) ∨
      ∃ g : State → State, f = (fun s => .next (g s)) ∧
        ∀ s r m, ∃ r' m', g (State.withModes s r m) = (g s).withModes r' m' := by
  cases h with
  | write X v _ _ hv => exact .inl fun s r m => by simp only [hv s r m, writeOperand_withModes]
  | move X Y => exact .inl fun s r m => by simp only [operand_withModes, move_withModes]
  | divided X b v _ _ hv =>
    refine .inl fun s r m => ?_
    obtain ⟨hb, hv⟩ := Prod.mk.inj (hv s r m)
    simp only [hb, hv, writeDivided_withModes]
  | remainder X a b _ _ hv =>
    refine .inl fun s r m => ?_
    obtain ⟨ha, hb⟩ := Prod.mk.inj (hv s r m)
    simp only [ha, hb, writeRemainder_withModes]
  | load X ea n _ _ hv => exact .inl fun s r m => by simp only [hv s r m, loadInto_withModes]
  | store X ea n _ _ hv => exact .inl fun s r m => by simp only [hv s r m, storeFrom_withModes]
  | push X n => exact .inl fun s r m => pushFrom_withModes s r m X n
  | pop X n => exact .inl fun s r m => popInto_withModes s r m X n
  | call n => exact .inl fun s r m => execCall_withModes s r m n
  | ret => exact .inl execRet_withModes
  | product p _ _ hv => exact .inl fun s r m => by simp only [hv s r m]; rfl
  | quotient b q t _ _ hv =>
    refine .inl fun s r m => ?_
    obtain ⟨hb, hqt⟩ := Prod.mk.inj (hv s r m)
    obtain ⟨hq, ht⟩ := Prod.mk.inj hqt
    simp only [hb, hq, ht, writeQuotient_withModes]
  | compare a b _ _ hv =>
    refine .inl fun s r m => ?_
    obtain ⟨ha, hb⟩ := Prod.mk.inj (hv s r m)
    simp only [ha, hb]
    rfl
  | jump taken offset _ _ hv =>
    refine .inl fun s r m => ?_
    obtain ⟨htaken, hoffset⟩ := Prod.mk.inj (hv s r m)
    simp only [htaken, hoffset, jumpIf_withModes]
  | runMode n => exact .inr (.inl ⟨n, rfl⟩)
  | wake n => exact .inr (.inr (.inl ⟨n, rfl⟩))
  | control g _ _ hg => exact .inr (.inr (.inr ⟨g, rfl, hg⟩))

/-- CRM sets the run mode whatever it was, or reports its operand. -/
theorem execCrm_inert {n : BitVec 24} {t : State} (h : execCrm n s = .next t) :
    ∃ r' m', execCrm n (s.withModes r m) = .next (t.withModes r' m') := by
  unfold execCrm at h ⊢
  split at h
  · next h0 =>
    cases h
    exact ⟨.normal, m, by rw [if_pos h0]; rfl⟩
  · next h0 =>
    rw [if_neg h0]
    split at h
    · next h1 =>
      cases h
      exact ⟨.single, m, by rw [if_pos h1]; rfl⟩
    · next h1 =>
      rw [if_neg h1]
      exact inert_of_commutes (signalError_withModes s r m _ _) h

/-- The default operating system looks at no mode (D27). -/
theorem execWake_inert {n : BitVec 24} {t : State} (hwake : s.params.wakeHandler = .recording)
    (h : execWake n s = .next t) : ∃ r' m', execWake n (s.withModes r m) = .next (t.withModes r' m') := by
  have hwake' : (s.withModes r m).params.wakeHandler = .recording := hwake
  rw [execWake, execWakeWith, hwake] at h
  cases h
  rw [execWake, execWakeWith, hwake']
  exact ⟨r, m, congrArg Host.Outcome.next
    (apply_ite (State.withModes · r m) (s.osOn = true) (defaultWakeHandler n s) s).symm⟩

theorem Meaning.inert {i : Instr} {f : State → Answer State} (h : Meaning i f) {t : State}
    (hwake : s.params.wakeHandler = .recording) (hf : f s = .next t) :
    ∃ r' m', f (s.withModes r m) = .next (t.withModes r' m') := by
  rcases h.commutes with hcomm | ⟨n, rfl⟩ | ⟨n, rfl⟩ | ⟨g, rfl, hg⟩
  · exact inert_of_commutes (hcomm s r m) hf
  · exact execCrm_inert hf
  · exact execWake_inert hwake hf
  · cases hf
    obtain ⟨r', m', hg'⟩ := hg s r m
    exact ⟨r', m', congrArg Host.Outcome.next hg'⟩

theorem exec_inert {i : Instr} {t : State} (hwake : s.params.wakeHandler = .recording) (h : exec i s = .next t) :
    ∃ r' m', exec i (s.withModes r m) = .next (t.withModes r' m') := by
  cases hw : i.wellFormed with
  | true => exact ((meant i).good hw).inert hwake h
  | false =>
    rw [exec_of_not_wellFormed hw] at h ⊢
    exact inert_of_commutes (signalError_withModes s r m _ _) h

theorem executeWord_inert {w : Word} {t : State} (hwake : s.params.wakeHandler = .recording)
    (h : executeWord s w = .next t) : ∃ r' m', executeWord (s.withModes r m) w = .next (t.withModes r' m') := by
  unfold executeWord at h ⊢
  rw [show (s.withModes r m).zombie = s.zombie from rfl]
  split at h
  · next hz =>
    cases h
    exact ⟨r, m, by rw [if_pos hz]⟩
  · next hz =>
    rw [if_neg hz]
    split at h
    · exact exec_inert hwake h
    · exact inert_of_commutes (signalError_withModes s r m _ _) h

/-- The fetch does not look at the two modes either, so the same word is executed on the same state but for them. -/
theorem step_inert {t : State} (hwake : s.params.wakeHandler = .recording) (h : step s = .next t) :
    ∃ r' m', step (s.withModes r m) = .next (t.withModes r' m') := by
  have hfetch : memFetch (s.withModes r m) = (memFetch s).map fun q => (q.1, q.2.withModes r m) :=
    memRead_withModes s.ticked r m s.pc .word
  cases hpower : s.power with
  | running =>
    rcases step_running hpower with ⟨hnone, hstep⟩ | ⟨w, s1, hsome, hstep⟩
    · rw [hstep] at h
      cases h
      rw [hnone] at hfetch
      exact ⟨r, m, step_of_memFetch_none hpower hfetch⟩
    · rw [hstep] at h
      rw [hsome] at hfetch
      have hparams : s1.params = s.params := (afterRead hsome).keepsRecord.params
      have hstep' : step (s.withModes r m) = executeWord ((s1.fetched w).withModes r m) w :=
        step_of_memFetch (s := s.withModes r m) (s1 := s1.withModes r m) hpower hfetch
      rw [hstep']
      exact executeWord_inert (by rw [State.fetched_params, hparams, hwake]) h
  | _ =>
    have hstopped : s.power ≠ .running := by simp [hpower]
    rw [stoppedMachineStays s hstopped] at h
    cases h
    exact ⟨r, m, stoppedMachineStays (s.withModes r m) hstopped⟩

end

/-- Settles O28: the fetch, the checks and every meaning commute with replacing the two modes. -/
theorem runModeAndSystemModeAreInert : Obligations.RunModeAndSystemModeAreInert :=
  fun _ _ _ _ hwake h => step_inert hwake h

end Sys2Proof.Machine
end

section
/-! PROOFS. The instructions that write one register: constants, addition and subtraction, one-operand arithmetic,
logic, shifts and rotates (41_set_copy_load.md section 1; 43_arithmetic.md sections 1 and 4; 44_logic.md). -/

namespace Sys2Proof.Machine

open Sys2Proof.Claims

/-! ## The values -/

/-- The unsigned number of an 8-bit immediate is kept by the extension with zeros. -/
theorem toNat_zext (n : BitVec 8) : (zext n).toNat = n.toNat := BitVec.toNat_setWidth_of_le (by decide)

theorem absolute_eq_neg (v : Word) : absolute v = if v.toInt < 0 then -v else v := by
  rw [absolute_eq, BitVec.msb_eq_toInt]
  simp only [decide_eq_true_eq]

/-! ## Each of them is an operand write of its value -/

theorem exec_rrr : ∀ f ∈ rrrWriters, ∀ (X Y Z : Reg) (s : State), exec (f.1 X.number Y.number Z.number) s =
    writeOperand s X (f.2 (s.operand .y Y) (s.operand .z Z)) := by
  intro f hf X Y Z s
  simp only [rrrWriters, List.mem_cons, List.not_mem_nil, or_false] at hf
  rcases hf with rfl | rfl | rfl | rfl | rfl | rfl | rfl | rfl | rfl | rfl | rfl | rfl | rfl | rfl | rfl
  · simp only [exec, execAdd, withReg3_number, trunc32_signed_add]
  · simp only [exec, execAddu, withReg3_number, trunc32_unsigned_add]
  · simp only [exec, execSub, withReg3_number, trunc32_signed_sub]
  · simp only [exec, execSubu, withReg3_number, trunc32_unsigned_sub]
  · simp only [exec, execMuld, withReg3_number, trunc32_unsigned_mul]
  · simp only [exec, execAnd, withReg3_number]
  · simp only [exec, execOr, withReg3_number]
  · simp only [exec, execXor, withReg3_number]
  · simp only [exec, execNand, withReg3_number]
  · simp only [exec, execNor, withReg3_number]
  · simp only [exec, execShl, withReg3_number, shiftLeft_eq]
  · simp only [exec, execShr, withReg3_number, shiftRight_eq]
  · simp only [exec, execShra, withReg3_number, shiftRightArithmetic_eq]
  · simp only [exec, execRotl, withReg3_number, rotateLeft_eq]
  · simp only [exec, execRotr, withReg3_number, rotateRight_eq]

theorem exec_rrn : ∀ f ∈ rrnWriters, ∀ (X Y : Reg) (n : BitVec 8) (s : State), exec (f.1 X.number Y.number n) s =
    writeOperand s X (f.2 (s.operand .y Y) n) := by
  intro f hf X Y n s
  simp only [rrnWriters, List.mem_cons, List.not_mem_nil, or_false] at hf
  rcases hf with rfl | rfl | rfl | rfl | rfl | rfl | rfl | rfl | rfl | rfl | rfl | rfl | rfl | rfl
  · simp only [exec, execAddi, withReg2_number, sext, trunc32_signed_add]
  · simp only [exec, execAddiu, withReg2_number, zext, trunc32_unsigned_add]
  · simp only [exec, execSubi, withReg2_number, sext, trunc32_signed_sub]
  · simp only [exec, execSubiu, withReg2_number, zext, trunc32_unsigned_sub]
  · simp only [exec, execAndi, withReg2_number, zext]
  · simp only [exec, execOri, withReg2_number, zext]
  · simp only [exec, execXori, withReg2_number, zext]
  · simp only [exec, execNandi, withReg2_number, zext]
  · simp only [exec, execNori, withReg2_number, zext]
  · simp only [exec, execShli, withReg2_number, shiftLeft_eq, toNat_zext]
  · simp only [exec, execShri, withReg2_number, shiftRight_eq, toNat_zext]
  · simp only [exec, execShrai, withReg2_number, shiftRightArithmetic_eq, toNat_zext]
  · simp only [exec, execRotli, withReg2_number, rotateLeft_eq, toNat_zext]
  · simp only [exec, execRotri, withReg2_number, rotateRight_eq, toNat_zext]

theorem exec_rr0 : ∀ f ∈ rr0Writers, ∀ (X Y : Reg) (s : State), exec (f.1 X.number Y.number) s =
    writeOperand s X (f.2 (s.operand .y Y)) := by
  intro f hf X Y s
  simp only [rr0Writers, List.mem_cons, List.not_mem_nil, or_false] at hf
  rcases hf with rfl | rfl | rfl | rfl
  · simp only [exec, execCopy, withReg2_number]
  · simp only [exec, execAbs, withReg2_number, absolute_eq_neg]
  · simp only [exec, execNeg, withReg2_number, trunc32_signed_neg]
  · simp only [exec, execNot, withReg2_number]

theorem exec_rnn : ∀ f ∈ rnnWriters, ∀ (X : Reg) (n : BitVec 16) (s : State), exec (f.1 X.number n) s =
    writeOperand s X (f.2 n) := by
  intro f hf X n s
  simp only [rnnWriters, List.mem_cons, List.not_mem_nil, or_false] at hf
  rcases hf with rfl | rfl | rfl
  · simp only [exec, execSet, withReg_number, sext]
  · simp only [exec, execSetu, withReg_number, zext]
  · simp only [exec, execNoti, withReg_number, zext]

theorem exec_r00 : ∀ f ∈ r00Writers, ∀ (X : Reg) (s : State), exec (f.1 X.number) s =
    writeOperand s X (f.2 (s.operand .x X)) := by
  intro f hf X s
  simp only [r00Writers, List.mem_cons, List.not_mem_nil, or_false] at hf
  rcases hf with rfl | rfl
  · simp only [exec, execInc, withReg_number, trunc32_succ]
  · simp only [exec, execDec, withReg_number, trunc32_pred]

/-! ## The forms of statements -/

theorem refusesBadRegister {i : Instr} {fields : List RegNumber} (hfields : i.regFields = fields) :
    RefusesBadRegister i fields := by
  rintro s ⟨f, hf, hbad⟩ hp
  have hw : i.wellFormed = false := by
    rw [Instr.wellFormed, hfields]
    exact List.all_eq_false.2 ⟨f, hf, by simp [hbad]⟩
  rw [exec_of_not_wellFormed hw]
  exact signalError_reports _ fun _ => hp

/-- An instruction of format RRR that stands in the list with its value writes it, where its opcode's row of the map
builds it from the fields; the same for the other formats. -/
theorem writesRRR {op : Byte} {mk : RegNumber → RegNumber → RegNumber → Instr} {value : Word → Word → Word}
    (hrow : opcodeRows.find? (fun row => row.1 == op) = some (op, fun f => mk f.x f.y f.z))
    (hf : (mk, value) ∈ rrrWriters := by simp [rrrWriters])
    (hfields : ∀ x y z, (mk x y z).regFields = [x, y, z] := by exact fun _ _ _ => rfl) : WritesRRR op mk value :=
  ⟨fun x y z => ⟨decode_bytes hrow fun _ _ => rfl, refusesBadRegister (hfields x y z)⟩,
    fun X Y Z s => exec_rrr _ hf X Y Z s ▸ writeOperand_spec s X _⟩

theorem writesRRN {op : Byte} {mk : RegNumber → RegNumber → BitVec 8 → Instr} {value : Word → BitVec 8 → Word}
    (hrow : opcodeRows.find? (fun row => row.1 == op) = some (op, fun f => mk f.x f.y f.z))
    (hf : (mk, value) ∈ rrnWriters := by simp [rrnWriters])
    (hfields : ∀ x y n, (mk x y n).regFields = [x, y] := by exact fun _ _ _ => rfl) : WritesRRN op mk value :=
  ⟨fun x y n => ⟨decode_bytes hrow fun _ _ => rfl, refusesBadRegister (hfields x y n)⟩,
    fun X Y n s => exec_rrn _ hf X Y n s ▸ writeOperand_spec s X _⟩

theorem writesRR0 {op : Byte} {mk : RegNumber → RegNumber → Instr} {value : Word → Word}
    (hrow : opcodeRows.find? (fun row => row.1 == op) = some (op, fun f => mk f.x f.y))
    (hf : (mk, value) ∈ rr0Writers := by simp [rr0Writers])
    (hfields : ∀ x y, (mk x y).regFields = [x, y] := by exact fun _ _ => rfl) : WritesRR0 op mk value :=
  ⟨fun x y _ => ⟨decode_bytes hrow fun _ _ => rfl, refusesBadRegister (hfields x y)⟩,
    fun X Y s => exec_rr0 _ hf X Y s ▸ writeOperand_spec s X _⟩

theorem writesRNN {op : Byte} {mk : RegNumber → BitVec 16 → Instr} {value : BitVec 16 → Word}
    (hrow : opcodeRows.find? (fun row => row.1 == op) = some (op, fun f => mk f.x f.n16))
    (hf : (mk, value) ∈ rnnWriters := by simp [rnnWriters])
    (hfields : ∀ x n, (mk x n).regFields = [x] := by exact fun _ _ => rfl) : WritesRNN op mk value :=
  ⟨fun x n => ⟨decode_append16 hrow fun _ _ _ => rfl, refusesBadRegister (hfields x n)⟩,
    fun X n s => exec_rnn _ hf X n s ▸ writeOperand_spec s X _⟩

theorem writesR00 {op : Byte} {mk : RegNumber → Instr} {value : Word → Word}
    (hrow : opcodeRows.find? (fun row => row.1 == op) = some (op, fun f => mk f.x))
    (hf : (mk, value) ∈ r00Writers := by simp [r00Writers])
    (hfields : ∀ x, (mk x).regFields = [x] := by exact fun _ => rfl) : WritesR00 op mk value :=
  ⟨fun x _ => ⟨decode_append16 hrow fun _ _ _ => rfl, refusesBadRegister (hfields x)⟩,
    fun X s => exec_r00 _ hf X s ▸ writeOperand_spec s X _⟩

/-! ## The statements -/

/-- Settles O35: each is an operand write by its row of the opcode map. -/
theorem setAndCopy : Obligations.SetAndCopy :=
  ⟨writesRNN rfl, writesRNN rfl, writesRR0 rfl⟩

/-- Settles O50: sum and difference of the extended operands, modulo 2^32. -/
theorem addAndSubtract : Obligations.AddAndSubtract :=
  ⟨writesRRR rfl, writesRRR rfl, writesRRN rfl, writesRRN rfl, writesRRR rfl, writesRRR rfl, writesRRN rfl,
    writesRRN rfl⟩

/-- Settles O51: the patterns modulo 2^32, the absolute value by the sign. -/
theorem oneOperandArithmetic : Obligations.OneOperandArithmetic :=
  ⟨writesRR0 rfl, writesRR0 rfl, writesR00 rfl, writesR00 rfl⟩

/-- Settles O55: the bit vectors' own operations. -/
theorem bitwiseLogic : Obligations.BitwiseLogic :=
  ⟨writesRRR rfl, writesRRN rfl, writesRRR rfl, writesRRN rfl, writesRRR rfl, writesRRN rfl, writesRR0 rfl,
    writesRNN rfl, writesRRR rfl, writesRRN rfl, writesRRR rfl, writesRRN rfl⟩

/-- Settles O56: shifts by the whole amount, rotates by the amount modulo 32. -/
theorem shiftAndRotate : Obligations.ShiftAndRotate :=
  ⟨writesRRR rfl, writesRRN rfl, writesRRR rfl, writesRRN rfl, writesRRR rfl, writesRRN rfl, writesRRR rfl,
    writesRRN rfl, writesRRR rfl, writesRRN rfl⟩

end Sys2Proof.Machine
end

section
/-! PROOFS. The loads and the stores: from and to the memory, the bus table and the devices, and where the bus serves
nothing (20_memory.md sections 3 to 7; 41_set_copy_load.md section 2; 42_store_stack.md section 1). -/

namespace Sys2Proof.Machine

open Sys2Proof.Claims

/-! ## Registers written one after the other -/

section

variable {s t u : State} {l l' : List Reg}

theorem State.OnlyRegisters.mono (h : s.OnlyRegisters t l) (hsub : l ⊆ l') : s.OnlyRegisters t l' :=
  ⟨fun r hr => h.registers r fun hmem => hr (hsub hmem), h.bytes, h.machine⟩

theorem State.SameFixed.trans (h : s.SameFixed t) (h' : t.SameFixed u) : s.SameFixed u :=
  ⟨h'.busPorts.trans h.busPorts, h'.params.trans h.params, h'.wakeTrace.trans h.wakeTrace, h'.tick.trans h.tick⟩

theorem State.SameMachine.trans (h : s.SameMachine t) (h' : t.SameMachine u) : s.SameMachine u :=
  ⟨h'.power.trans h.power, h.modes.trans h'.modes, h.fixed.trans h'.fixed, h'.deviceTrace.trans h.deviceTrace⟩

theorem State.OnlyRegisters.trans (h : s.OnlyRegisters t l) (h' : t.OnlyRegisters u l') :
    s.OnlyRegisters u (l ++ l') where
  registers r hr := by
    rw [List.mem_append, not_or] at hr
    exact (h'.registers r hr.2).trans (h.registers r hr.1)
  bytes b := (h'.bytes b).trans (h.bytes b)
  machine := h.machine.trans h'.machine

end

/-! ## One call of a device -/

/-- The later state is the earlier one after one call of a device, with other contents in the registers of the list at
most. -/
structure State.OneCall (s t : State) (e : DeviceEvent) (l : List Reg) : Prop where
  trace : t.deviceTrace = s.deviceTrace ++ [e]
  registers : s.SameRegistersBut t l
  bytes : s.SameBytes t
  power : t.power = s.power
  modes : s.SameModes t
  fixed : s.SameFixed t

/-- A recorded event is such a call, and what is then written to registers belongs to it. -/
theorem State.oneCall (s : State) (e : DeviceEvent) :
    s.OneCall { s with deviceTrace := s.deviceTrace ++ [e] } e [] :=
  have hread : AfterRead s { s with deviceTrace := s.deviceTrace ++ [e] } := .device e
  ⟨rfl, fun r _ => hread.content_eq r, fun _ => rfl, rfl, hread.sameModes, ⟨rfl, rfl, rfl, rfl⟩⟩

theorem State.OneCall.trans {s t u : State} {e : DeviceEvent} {l : List Reg} (h : s.OneCall t e [])
    (honly : t.OnlyRegisters u l) : s.OneCall u e l where
  trace := honly.machine.deviceTrace.trans h.trace
  registers r hr := (honly.registers r hr).trans (h.registers r List.not_mem_nil)
  bytes b := (honly.bytes b).trans (h.bytes b)
  power := honly.machine.power.trans h.power
  modes := h.modes.trans honly.machine.modes
  fixed := h.fixed.trans honly.machine.fixed

/-! ## Decoding -/

theorem LoadForm.decode_eq {w : Word} {i : Instr} {X : Reg} {address : State → Word} {n : Width}
    (h : LoadForm w i X address n) : decode w = .ok i := by
  cases h <;> exact decode_bytes rfl fun _ _ => rfl

theorem StoreForm.decode_eq {w : Word} {i : Instr} {X : Reg} {address : State → Word} {n : Width}
    (h : StoreForm w i X address n) : decode w = .ok i := by
  cases h <;> exact decode_bytes rfl fun _ _ => rfl

section

variable {s : State} {X : Reg} {a v : Word} {n : Width}

/-! ## Loads -/

/-- With the bus on a load checks the destination and SP's range around what it has read (R154). -/
theorem loadInto_some {t : State} (hon : s.busOn = true) (hread : memRead s a n = some (v, t)) :
    loadInto s X a n = withWritable s X (withSpRange s X (mergeLow n (s.operand .x X) v)
      (.next (t.setReg X (mergeLow n (s.operand .x X) v)))) := by
  have hbus : loadInto s X a n = _ := withBus_on hon _
  rw [hbus, hread]

theorem loadInto_none (hon : s.busOn = true) (hread : memRead s a n = none) :
    loadInto s X a n = withWritable s X (signalError s .busError a) := by
  have hbus : loadInto s X a n = _ := withBus_on hon _
  rw [hbus, hread]

/-- A load whose read changes nothing is an operand write of the merged value (R154). -/
theorem loadInto_of_memRead (hon : s.busOn = true) (hread : memRead s a n = some (v, s)) :
    loadInto s X a n = writeOperand s X (mergeLow n (s.operand .x X) v) := loadInto_some hon hread

/-- A load that the bus does not serve is reported after the destination check (R351). -/
theorem loadInto_of_memRead_none (hon : s.busOn = true) (hX : X.writeProtected = false)
    (hread : memRead s a n = none) : Reports (loadInto s X a n) s .busError a := by
  rw [loadInto_none hon hread, withWritable_ok hX]
  exact reports_of_not_protection _ rfl a

/-- Taking the low bytes twice is taking them once. -/
theorem lowBytes_lowBytes (n : Width) (v : Word) : lowBytes n (lowBytes n v) = lowBytes n v := by
  refine word_eq_of_bytes fun j hj => (byteOf_mergeLow n 0 _ hj).trans ?_
  split
  · rfl
  · next hn => exact ((byteOf_mergeLow n 0 v hj).trans (if_neg hn)).symm

/-- A load from a device is one call, and an operand write of what it answers (R80, D7). -/
theorem deviceLoad_loadInto (hs : s.Sound) (hon : s.busOn = true) {p : Port} (hp : p ∈ s.busPorts)
    (ht : p.type ≠ memoryType) (hlow : p.start ≤ a.toNat) (hhigh : a.toNat + n.bytes ≤ p.start + p.length) :
    DeviceLoad (loadInto s X a n) s X a n p := by
  have hread : memRead s a n = some (deviceRead s p (a.toNat - p.start) n) := memRead_device hs hp ht hlow hhigh
  have hvalue : (deviceRead s p (a.toNat - p.start) n).1 = mergeLow n 0 (deviceRead s p (a.toNat - p.start) n).1 :=
    (lowBytes_lowBytes n _).symm
  rw [loadInto_some (v := (deviceRead s p (a.toNat - p.start) n).1) hon hread]
  refine ⟨_, mergeLow n (s.operand .x X) _, merged_lowBytes.2 hvalue, merged_lowBytes.2 rfl,
    fun hX hprotect => ?_, fun hX hv hprotect => ?_, fun hX hv => ?_⟩
  · rw [withWritable_protected hX]
    exact signalError_reports _ fun _ => hprotect
  · rw [withWritable_ok (by rw [hX]; rfl)]
    subst hX
    rw [withSpRange_out hv]
    exact signalError_reports _ fun _ => hprotect
  · rw [withWritable_ok hX, withSpRange_ok hv]
    have hcall := (s.oneCall (.read p.type (a.toNat - p.start) n (deviceRead s p (a.toNat - p.start) n).1)).trans
      (State.onlyRegisters_setReg _ X (mergeLow n (s.operand .x X) (deviceRead s p (a.toNat - p.start) n).1))
    exact ⟨_, rfl, State.content_setReg_self _ hX _, hcall.trace, hcall.registers, hcall.bytes, hcall.power,
      hcall.modes, hcall.fixed⟩

/-! ## Stores -/

theorem State.content_withMem (s : State) (mem : Memory) (r : Reg) :
    State.content { s with mem := mem } r = s.content r := by
  cases r <;> rfl

/-- The bytes of a value stored in the memory are held there, and no other byte changes (R75). -/
theorem holds_and_sameBytesOutside_store {t : State} (hs : s.Sound) {b : Nat}
    (hmem : t.mem = Memory.store s.mem b (bytesOf v n)) : Holds t.mem b n v ∧ s.SameBytesOutside t b n.bytes := by
  refine ⟨hmem ▸ holds_store hs.memCanonical b n v, fun b' hb' => ?_⟩
  rw [hmem]
  exact Memory.read_store_outside _ (by rwa [length_bytesOf])

theorem storeFrom_some {t : State} (hon : s.busOn = true) (hwrite : memWrite s a n (s.operand .x X) = some t) :
    storeFrom s X a n = .next t := by
  have hbus : storeFrom s X a n = _ := withBus_on hon _
  rw [hbus, hwrite]

theorem storeFrom_none (hon : s.busOn = true) (hwrite : memWrite s a n (s.operand .x X) = none) :
    storeFrom s X a n = signalError s .busError a := by
  have hbus : storeFrom s X a n = _ := withBus_on hon _
  rw [hbus, hwrite]

theorem storeFrom_memory (hs : s.Sound) (hon : s.busOn = true) (h : a.toNat + n.bytes ≤ s.params.memSize) :
    storeFrom s X a n = .next { s with mem := Memory.store s.mem a.toNat (bytesOf (s.operand .x X) n) } :=
  storeFrom_some hon (memWrite_memory hs.busBuilt _ h)

/-- The bus is asked for the ports at an address that is not negative and whose bytes end below 2^31 (R77). -/
theorem memWrite_of_lt (h : a.toNat + n.bytes ≤ 2 ^ 31) (v : Word) : memWrite s a n v =
    (findPort s.busPorts a.toNat n.bytes).map fun p =>
      if p.type = memoryType then { s with mem := Memory.store s.mem a.toNat (bytesOf v n) }
      else { s with deviceTrace := s.deviceTrace ++ [.write p.type (a.toNat - p.start) n (lowBytes n v)] } := by
  have hn := n.bytes_pos
  have hnonneg : ¬ signed a < 0 := not_lt.2 (signed_nonneg_of_lt (by omega))
  have hports : memWrite s a n v = _ := (if_neg hnonneg).trans (if_neg (by omega))
  rw [hports]
  cases findPort s.busPorts a.toNat n.bytes with
  | none => rfl
  | some p => exact (apply_ite some _ _ _).symm

/-- A write in a device port's range is one output event (R83). -/
theorem memWrite_device (hs : s.Sound) {p : Port} (hp : p ∈ s.busPorts) (ht : p.type ≠ memoryType)
    (hlow : p.start ≤ a.toNat) (hhigh : a.toNat + n.bytes ≤ p.start + p.length) (v : Word) :
    memWrite s a n v = some { s with
      deviceTrace := s.deviceTrace ++ [.write p.type (a.toNat - p.start) n (lowBytes n v)] } := by
  obtain ⟨hport, hend⟩ := hs.findPort n.bytes_pos hp hlow hhigh
  rw [memWrite_of_lt (by omega), hport, Option.map_some, if_neg ht]

theorem memWrite_cannot (h : s.CannotWrite a n) (v : Word) : memWrite s a n v = none := by
  by_cases ha : signed a < 0
  · exact if_pos ha
  by_cases hend : a.toNat + n.bytes ≤ 2 ^ 31
  · rw [memWrite_of_lt hend, noPort_iff.1 (h.resolve_left ha), Option.map_none]
  · exact (if_neg ha).trans (if_pos (by omega))

/-- A store that the bus does not serve is reported (R351). -/
theorem storeFrom_of_memWrite_none (hon : s.busOn = true) (hwrite : ∀ v, memWrite s a n v = none) :
    Reports (storeFrom s X a n) s .busError a := by
  rw [storeFrom_none hon (hwrite _)]
  exact reports_of_not_protection _ rfl a

end

/-! ## The statements -/

/-- Settles O38: a load from the memory is an operand write of the bytes read there, merged into X. -/
theorem loadsFromMemory : Obligations.LoadsFromMemory := by
  intro w i X address n hform
  refine ⟨hform.decode_eq, fun s v hb hon hin hmerged => ?_⟩
  rw [hform.exec_eq, loadInto_memory hb hon X hin, ← merged_iff.1 hmerged]
  exact writeOperand_spec s X v

/-- Settles O39: the same with the bytes of the table. -/
theorem loadsFromBusTable : Obligations.LoadsFromBusTable := by
  intro w i X address n hform s v byteAt hon hneg htable hmerged
  rw [hform.exec_eq, loadInto_of_memRead hon (memRead_table hneg htable), ← merged_iff.1 hmerged]
  exact writeOperand_spec s X v

/-- Settles O40: the read is one call of the device whose range holds the bytes. -/
theorem loadsFromDevices : Obligations.LoadsFromDevices := by
  intro w i X address n hform s p hs hon hp ht hlow hhigh
  rw [hform.exec_eq]
  exact deviceLoad_loadInto hs.toSound hon hp ht hlow hhigh

/-- Settles O41: the read answers nothing. -/
theorem unservedLoadsAreReported : Obligations.UnservedLoadsAreReported := by
  intro w i X address n hform s hon hX hcannot
  rw [hform.exec_eq]
  exact loadInto_of_memRead_none hon hX (memRead_cannot hcannot)

/-- Settles O42: the store is a write of the value's low bytes to the memory. -/
theorem storesToMemory : Obligations.StoresToMemory := by
  intro w i X address n hform
  refine ⟨hform.decode_eq, fun s hs hon hin => ?_⟩
  rw [hform.exec_eq, storeFrom_memory hs.toSound hon hin]
  obtain ⟨hholds, houtside⟩ := holds_and_sameBytesOutside_store
    (t := { s with mem := Memory.store s.mem (address s).toNat (bytesOf (s.operand .x X) n) }) hs.toSound rfl
  exact ⟨_, rfl, hholds, houtside, fun r _ => s.content_withMem _ r, ⟨rfl, .of_eq, ⟨rfl, rfl, rfl, rfl⟩, rfl⟩⟩

/-- Settles O43: the write is one output event of the device whose range holds the bytes. -/
theorem storesToDevices : Obligations.StoresToDevices := by
  intro w i X address n hform s p value hs hon hp ht hlow hhigh hmerged
  have hvalue : value = lowBytes n (s.operand .x X) := merged_lowBytes.1 hmerged
  have hwrite := memWrite_device hs.toSound hp ht hlow hhigh (s.operand .x X)
  rw [hform.exec_eq, hvalue, storeFrom_some hon hwrite]
  have hcall := s.oneCall (.write p.type ((address s).toNat - p.start) n (lowBytes n (s.operand .x X)))
  exact ⟨_, rfl, hcall.trace, hcall.bytes, hcall.registers, hcall.power, hcall.modes, hcall.fixed⟩

/-- Settles O44: the write is answered by nothing. -/
theorem unservedStoresAreReported : Obligations.UnservedStoresAreReported := by
  intro w i X address n hform s hon hcannot
  rw [hform.exec_eq]
  exact storeFrom_of_memWrite_none hon (memWrite_cannot hcannot)

/-- Settles O45: the memory holds the stored word, so the next fetch there reads it and the step runs it. -/
theorem storedWordsAreFetched : Obligations.StoredWordsAreFetched := by
  intro w i X address hform s t j hs hon hin hexec hrun hz hdecode
  have hsound : t.Sound := (exec_next hexec).sound hs.toSound
  rw [hform.exec_eq, storeFrom_memory hs.toSound hon hin] at hexec
  have ht : { s with mem := Memory.store s.mem (address s).toNat (bytesOf (s.operand .x X) .word) } = t :=
    Host.Outcome.next.inj hexec
  obtain ⟨hholds, -⟩ := holds_and_sameBytesOutside_store (v := s.operand .x X) (n := .word) hs.toSound
    (congrArg State.mem ht).symm
  have hparams : t.params = s.params := (congrArg State.params ht).symm
  have hfetch : State.WillFetch { t with pc := address s } (s.operand .x X) :=
    ⟨hsound.congr rfl rfl rfl, hrun, hparams ▸ hin, wordFrom_of_holds hholds⟩
  exact stepRunsDecodedInstruction _ _ j hfetch hz hdecode

end Sys2Proof.Machine
end

section
/-! PROOFS. Multiplication, division and remainder, the compares, MOVE and the unconditional jumps (41_set_copy_load.md
section 1; 43_arithmetic.md sections 2 and 3; 45_compare.md; 46_branch.md). -/

namespace Sys2Proof.Machine

open Sys2Proof.Claims

/-! ## MOVE -/

section

variable {s : State} {X Y : Reg} {v : Word}

/-- What MOVE does once its fields name registers (R153). -/
theorem exec_move (X Y : Reg) (s : State) : exec (.move X.number Y.number) s =
    withWritable s X (withWritable s Y (withSpRange s X (s.operand .y Y)
      (.next ((s.setReg X (s.operand .y Y)).setReg Y 0)))) :=
  withReg2_number s X Y _

/-- Both writes leave Y zero, and X, where it is another register, with the value. -/
theorem content_setReg_setReg_zero (hX : X.writeProtected = false) (hY : Y.writeProtected = false) :
    ((s.setReg X v).setReg Y 0).content Y = 0 ∧ (X ≠ Y → ((s.setReg X v).setReg Y 0).content X = v) :=
  ⟨State.content_setReg_self _ hY 0,
    fun hne => (State.content_setReg_ne _ hne 0).trans (s.content_setReg_self hX v)⟩

/-- Settles O36: X is checked before Y, SP's range after both, and then both are written. -/
theorem moveClearsItsSource : Obligations.MoveClearsItsSource := by
  refine ⟨fun x y unused => ⟨decode_bytes rfl fun _ _ => rfl, refusesBadRegister rfl⟩, fun X Y s => ?_⟩
  rw [exec_move]
  refine ⟨fun hp hX => ?_, fun hp hX hY => ?_, fun hp hX hY hv => ?_, fun hX hY hv => ?_⟩
  · rw [withWritable_protected hX]
    exact signalError_reports _ fun _ => hp
  · rw [withWritable_ok hX, withWritable_protected hY]
    exact signalError_reports _ fun _ => hp
  · subst hX
    rw [withWritable_ok rfl, withWritable_ok hY, withSpRange_out hv]
    exact signalError_reports _ fun _ => hp
  · rw [withWritable_ok hX, withWritable_ok hY, withSpRange_ok hv]
    obtain ⟨hzero, hvalue⟩ := content_setReg_setReg_zero (s := s) (v := s.operand .y Y) hX hY
    exact ⟨_, rfl, hzero, hvalue, (s.onlyRegisters_setReg X _).trans (State.onlyRegisters_setReg _ Y 0)⟩

end

/-! ## Instructions that only read their register fields -/

section

variable {op : Byte} {effect : Answer State → State → Word → Word → Prop}

theorem readsRR0 {mk : RegNumber → RegNumber → Instr}
    (hrow : opcodeRows.find? (fun row => row.1 == op) = some (op, fun f => mk f.x f.y))
    (hfields : ∀ x y, (mk x y).regFields = [x, y])
    (heffect : ∀ X Y s, effect (exec (mk X.number Y.number) s) s (s.operand .x X) (s.operand .y Y)) :
    ReadsRR0 op mk effect :=
  ⟨fun x y _ => ⟨decode_bytes hrow fun _ _ => rfl, refusesBadRegister (hfields x y)⟩, heffect⟩

theorem readsRNN {mk : RegNumber → BitVec 16 → Instr} {extend : BitVec 16 → Word}
    (hrow : opcodeRows.find? (fun row => row.1 == op) = some (op, fun f => mk f.x f.n16))
    (hfields : ∀ x n, (mk x n).regFields = [x])
    (heffect : ∀ X n s, effect (exec (mk X.number n) s) s (s.operand .x X) (extend n)) : ReadsRNN op mk extend effect :=
  ⟨fun x n => ⟨decode_append16 hrow fun _ _ _ => rfl, refusesBadRegister (hfields x n)⟩, heffect⟩

end

section

variable (s : State) (a b : Word)

/-! ## Multiplication -/

theorem signedProduct_writeProduct : SignedProduct (writeProduct s (trunc64 (signed a * signed b))) s a b := by
  obtain ⟨t, ht, hproduct, honly⟩ := writeProduct_spec s (trunc64 (signed a * signed b))
  exact ⟨t, ht, by rw [hproduct, toInt_trunc64_mul], honly⟩

theorem unsignedProduct_writeProduct : UnsignedProduct (writeProduct s (trunc64 (unsigned a * unsigned b))) s a b := by
  obtain ⟨t, ht, hproduct, honly⟩ := writeProduct_spec s (trunc64 (unsigned a * unsigned b))
  exact ⟨t, ht, by rw [hproduct, toNat_trunc64_mul], honly⟩

/-! ## Division -/

theorem signed_eq_zero_iff : signed b = 0 ↔ b = 0 := by
  rw [signed, ← BitVec.toInt_zero (w := 32), BitVec.toInt_inj]
  rfl

theorem unsigned_eq_zero_iff : unsigned b = 0 ↔ b = 0 := by
  rw [unsigned, Int.natCast_eq_zero, ← BitVec.toNat_inj]
  rfl

/-- A divisor of zero is reported, and any other division puts quotient and remainder into HI and LO. -/
theorem writeQuotient_zero (q r : Int) : Reports (writeQuotient s 0 q r) s .divideByZero s.ir :=
  reports_of_not_protection s (e := .divideByZero) rfl _

theorem writeQuotient_ne {d : Int} (hd : d ≠ 0) (q r : Int) :
    writeQuotient s d q r = .next (s.setQuotient q r) := if_neg hd

/-- The signed quotient and remainder belong together, but for the one overflow (R223, D15). -/
theorem sdiv_srem_spec (hb : b ≠ 0) :
    if a = 0x80000000 ∧ b = 0xFFFFFFFF then a.sdiv b = 0x80000000 ∧ a.srem b = 0
    else b.toInt * (a.sdiv b).toInt + (a.srem b).toInt = a.toInt ∧ (a.srem b).toInt.natAbs < b.toInt.natAbs ∧
      (a.srem b = 0 ∨ ((a.srem b).toInt < 0 ↔ a.toInt < 0)) := by
  have hbint : b.toInt ≠ 0 := mt (signed_eq_zero_iff b).1 hb
  split
  · next hover =>
    obtain ⟨rfl, rfl⟩ := hover
    decide
  · next hover =>
    have hquot : (a.sdiv b).toInt = a.toInt.tdiv b.toInt :=
      BitVec.toInt_sdiv_of_ne_or_ne a b (not_and_or.1 hover)
    have hrem : (a.srem b).toInt = a.toInt.tmod b.toInt := BitVec.toInt_srem a b
    refine ⟨?_, ?_, ?_⟩
    · rw [hquot, hrem, Int.mul_tdiv_add_tmod]
    · rw [hrem, Int.natAbs_tmod]
      exact Nat.mod_lt _ (Int.natAbs_pos.2 hbint)
    · rw [or_iff_not_imp_left, ← signed_eq_zero_iff, signed, hrem]
      intro hne
      rcases lt_or_ge a.toInt 0 with ha | ha
      · have hneg : 0 ≤ (-a.toInt).tmod b.toInt := Int.tmod_nonneg b.toInt (neg_nonneg.2 ha.le)
        have hle : a.toInt.tmod b.toInt ≤ 0 := by rwa [Int.neg_tmod, neg_nonneg] at hneg
        exact iff_of_true (lt_of_le_of_ne hle hne) ha
      · exact iff_of_false (not_lt.2 (Int.tmod_nonneg b.toInt ha)) (not_lt.2 ha)

theorem signedDivision_writeQuotient : SignedDivision
    (writeQuotient s (signed b) (tdiv (signed a) (signed b)) (trem (signed a) (signed b))) s a b := by
  refine ⟨fun hb => ?_, fun hb => ?_⟩
  · rw [(signed_eq_zero_iff b).2 hb]
    exact writeQuotient_zero s _ _
  · rw [writeQuotient_ne s (mt (signed_eq_zero_iff b).1 hb)]
    refine ⟨_, rfl, s.onlyRegisters_hiLo _ _, ?_⟩
    rw [State.setQuotient_hi, State.setQuotient_lo, trunc32_tdiv, trunc32_trem]
    exact sdiv_srem_spec a b hb

theorem unsignedDivision_writeQuotient : UnsignedDivision
    (writeQuotient s (unsigned b) (udiv (unsigned a) (unsigned b)) (urem (unsigned a) (unsigned b))) s a b := by
  refine ⟨fun hb => ?_, fun hb => ?_⟩
  · rw [(unsigned_eq_zero_iff b).2 hb]
    exact writeQuotient_zero s _ _
  · have hpos : 0 < b.toNat := Nat.pos_of_ne_zero fun h0 => hb (BitVec.eq_of_toNat_eq h0)
    rw [writeQuotient_ne s (mt (unsigned_eq_zero_iff b).1 hb)]
    refine ⟨_, rfl, s.onlyRegisters_hiLo _ _, ?_⟩
    rw [State.setQuotient_hi, State.setQuotient_lo, trunc32_udiv, trunc32_urem, BitVec.toNat_udiv, BitVec.toNat_umod]
    exact ⟨Nat.div_add_mod _ _, Nat.mod_lt _ hpos⟩

/-! ## Compares -/

theorem comparison_slt : Comparison BitVec.slt (writeCmp s (signed a) (signed b)) s a b := by
  obtain ⟨t, ht, hcmp, honly⟩ := writeCmp_spec s (signed a) (signed b)
  exact ⟨t, ht, hcmp.trans (cmp3_signed a b), honly⟩

theorem comparison_ult : Comparison BitVec.ult (writeCmp s (unsigned a) (unsigned b)) s a b := by
  obtain ⟨t, ht, hcmp, honly⟩ := writeCmp_spec s (unsigned a) (unsigned b)
  exact ⟨t, ht, hcmp.trans (cmp3_unsigned a b), honly⟩

end

/-! ## What the instructions do once their fields name registers -/

section

variable (X Y Z : Reg) (n16 : BitVec 16) (n : BitVec 8) (s : State)

theorem exec_mul : exec (.mul X.number Y.number) s =
    writeProduct s (trunc64 (signed (s.operand .x X) * signed (s.operand .y Y))) := withReg2_number s X Y _

theorem exec_mulu : exec (.mulu X.number Y.number) s =
    writeProduct s (trunc64 (unsigned (s.operand .x X) * unsigned (s.operand .y Y))) := withReg2_number s X Y _

theorem exec_muli : exec (.muli X.number n16) s =
    writeProduct s (trunc64 (signed (s.operand .x X) * signed (sext n16))) := withReg_number s X _

theorem exec_muliu : exec (.muliu X.number n16) s =
    writeProduct s (trunc64 (unsigned (s.operand .x X) * unsigned (zext n16))) := withReg_number s X _

theorem exec_div : exec (.div X.number Y.number) s = writeQuotient s (signed (s.operand .y Y))
    (tdiv (signed (s.operand .x X)) (signed (s.operand .y Y)))
    (trem (signed (s.operand .x X)) (signed (s.operand .y Y))) := withReg2_number s X Y _

theorem exec_divu : exec (.divu X.number Y.number) s = writeQuotient s (unsigned (s.operand .y Y))
    (udiv (unsigned (s.operand .x X)) (unsigned (s.operand .y Y)))
    (urem (unsigned (s.operand .x X)) (unsigned (s.operand .y Y))) := withReg2_number s X Y _

theorem exec_divi : exec (.divi X.number n16) s = writeQuotient s (signed (sext n16))
    (tdiv (signed (s.operand .x X)) (signed (sext n16)))
    (trem (signed (s.operand .x X)) (signed (sext n16))) := withReg_number s X _

theorem exec_diviu : exec (.diviu X.number n16) s = writeQuotient s (unsigned (zext n16))
    (udiv (unsigned (s.operand .x X)) (unsigned (zext n16)))
    (urem (unsigned (s.operand .x X)) (unsigned (zext n16))) := withReg_number s X _

theorem exec_cmp : exec (.cmp X.number Y.number) s =
    writeCmp s (signed (s.operand .x X)) (signed (s.operand .y Y)) := withReg2_number s X Y _

theorem exec_cmpu : exec (.cmpu X.number Y.number) s =
    writeCmp s (unsigned (s.operand .x X)) (unsigned (s.operand .y Y)) := withReg2_number s X Y _

theorem exec_cmpi : exec (.cmpi X.number n16) s =
    writeCmp s (signed (s.operand .x X)) (signed (sext n16)) := withReg_number s X _

theorem exec_cmpiu : exec (.cmpiu X.number n16) s =
    writeCmp s (unsigned (s.operand .x X)) (unsigned (zext n16)) := withReg_number s X _

theorem exec_divd : exec (.divd X.number Y.number Z.number) s = writeDivided s X (signed (s.operand .z Z))
    (tdiv (signed (s.operand .y Y)) (signed (s.operand .z Z))) := withReg3_number s X Y Z _

theorem exec_mod : exec (.mod X.number Y.number Z.number) s =
    writeRemainder s X (unsigned (s.operand .y Y)) (unsigned (s.operand .z Z)) := withReg3_number s X Y Z _

theorem exec_modi : exec (.modi X.number Y.number n) s =
    writeRemainder s X (unsigned (s.operand .y Y)) (unsigned (zext n)) := withReg2_number s X Y _

theorem exec_jmpr : exec (.jmpr X.number) s = jumpIf s true (signed (s.operand .x X)) := withReg_number s X _

end

/-- Settles O52: the products are exact, and MULD is an operand write. -/
theorem multiply : Obligations.Multiply :=
  ⟨readsRR0 rfl (fun _ _ => rfl) fun X Y s => exec_mul X Y s ▸ signedProduct_writeProduct s _ _,
    readsRR0 rfl (fun _ _ => rfl) fun X Y s => exec_mulu X Y s ▸ unsignedProduct_writeProduct s _ _,
    readsRNN rfl (fun _ _ => rfl) fun X n s => exec_muli X n s ▸ signedProduct_writeProduct s _ _,
    readsRNN rfl (fun _ _ => rfl) fun X n s => exec_muliu X n s ▸ unsignedProduct_writeProduct s _ _, writesRRR rfl⟩

/-- Settles O53: quotient and remainder are those of the bit vectors' own division. -/
theorem divideIntoHiAndLo : Obligations.DivideIntoHiAndLo :=
  ⟨readsRR0 rfl (fun _ _ => rfl) fun X Y s => exec_div X Y s ▸ signedDivision_writeQuotient s _ _,
    readsRR0 rfl (fun _ _ => rfl) fun X Y s => exec_divu X Y s ▸ unsignedDivision_writeQuotient s _ _,
    readsRNN rfl (fun _ _ => rfl) fun X n s => exec_divi X n s ▸ signedDivision_writeQuotient s _ _,
    readsRNN rfl (fun _ _ => rfl) fun X n s => exec_diviu X n s ▸ unsignedDivision_writeQuotient s _ _⟩

/-- Settles O57: a compare writes CMP and nothing else. -/
theorem compare : Obligations.Compare :=
  ⟨readsRR0 rfl (fun _ _ => rfl) fun X Y s => exec_cmp X Y s ▸ comparison_slt s _ _,
    readsRR0 rfl (fun _ _ => rfl) fun X Y s => exec_cmpu X Y s ▸ comparison_ult s _ _,
    readsRNN rfl (fun _ _ => rfl) fun X n s => exec_cmpi X n s ▸ comparison_slt s _ _,
    readsRNN rfl (fun _ _ => rfl) fun X n s => exec_cmpiu X n s ▸ comparison_ult s _ _⟩

/-! ## DIVD, MOD and MODI -/

section

variable {s : State} {X : Reg} {a b : Word}

theorem writeDivided_protected (hX : X.writeProtected = true) (d v : Int) :
    writeDivided s X d v = signalError s .writeProtected (zext X.number) := withWritable_protected hX _

theorem writeDivided_zero (hX : X.writeProtected = false) (v : Int) :
    writeDivided s X 0 v = signalError s .divideByZero s.ir := withWritable_ok hX _

theorem divisionChecks_writeDivided (s : State) (X : Reg) (b : Word) (v : Int) :
    DivisionChecks (writeDivided s X (signed b) v) s X b := by
  refine ⟨fun hX hp => ?_, fun hX hb => ?_⟩
  · rw [writeDivided_protected hX]
    exact signalError_reports _ fun _ => hp
  · rw [hb, (signed_eq_zero_iff 0).2 rfl, writeDivided_zero hX]
    exact reports_of_not_protection _ rfl _

/-- With a divisor DIVD is an operand write of the quotient. -/
theorem writeDivided_eq_writeOperand (hb : b ≠ 0) (v : Int) :
    writeDivided s X (signed b) v = writeOperand s X (trunc32 v) :=
  congrArg (withWritable s X) (if_neg (mt (signed_eq_zero_iff b).1 hb))

theorem writeRemainder_protected (hX : X.writeProtected = true) (m d : Int) :
    writeRemainder s X m d = signalError s .writeProtected (zext X.number) := withWritable_protected hX _

theorem writeRemainder_zero (hX : X.writeProtected = false) (m : Int) :
    writeRemainder s X m 0 = signalError s .divideByZero s.ir := withWritable_ok hX _

theorem divisionChecks_writeRemainder (s : State) (X : Reg) (a b : Word) :
    DivisionChecks (writeRemainder s X (unsigned a) (unsigned b)) s X b := by
  refine ⟨fun hX hp => ?_, fun hX hb => ?_⟩
  · rw [writeRemainder_protected hX]
    exact signalError_reports _ fun _ => hp
  · rw [hb, (unsigned_eq_zero_iff 0).2 rfl, writeRemainder_zero hX]
    exact reports_of_not_protection _ rfl _

theorem writeRemainder_of_ne (hb : b ≠ 0) : writeRemainder s X (unsigned a) (unsigned b) =
    withWritable s X (withSpRange s X (a % b) (.next ((if s.params.modWritesHiLo then
      s.setQuotient (udiv (unsigned a) (unsigned b)) (urem (unsigned a) (unsigned b)) else s).setReg X (a % b)))) := by
  rw [← trunc32_urem a b]
  exact congrArg (withWritable s X) (if_neg (mt (unsigned_eq_zero_iff b).1 hb))

/-- HI and LO take quotient and remainder first, and then X the remainder (D16). -/
theorem remainder_hiLo_spec (hX : X.writeProtected = false) (a b : Word) :
    let t := (s.setQuotient (udiv (unsigned a) (unsigned b)) (urem (unsigned a) (unsigned b))).setReg X (a % b)
    t.content X = a % b ∧ (X ≠ .hi → t.hi = a / b) ∧ (X ≠ .lo → t.lo = a % b) ∧ s.OnlyRegisters t [X, .hi, .lo] := by
  intro t
  refine ⟨State.content_setReg_self _ hX _, fun hne => ?_, fun hne => ?_, ?_⟩
  · exact (State.content_setReg_ne _ (q := .hi) hne.symm _).trans (trunc32_udiv a b)
  · exact (State.content_setReg_ne _ (q := .lo) hne.symm _).trans (trunc32_urem a b)
  · have honly : s.OnlyRegisters t ([.hi, .lo] ++ [X]) :=
      (s.onlyRegisters_hiLo _ _).trans (State.onlyRegisters_setReg _ X _)
    exact honly.mono (by simp)

theorem remainder_writeRemainder (s : State) (X : Reg) (a b : Word) :
    Remainder (writeRemainder s X (unsigned a) (unsigned b)) s X a b := by
  refine ⟨divisionChecks_writeRemainder s X a b, fun hmode hb => ?_,
    fun hmode hb => ⟨fun hX hv hp => ?_, fun hX hv => ?_⟩⟩
  · rw [writeRemainder_of_ne hb, if_neg (by simp [hmode])]
    exact writeOperand_spec s X (a % b)
  · subst hX
    rw [writeRemainder_of_ne hb, withWritable_ok rfl, withSpRange_out hv]
    exact signalError_reports _ fun _ => hp
  · rw [writeRemainder_of_ne hb, withWritable_ok hX, withSpRange_ok hv, if_pos hmode]
    exact ⟨_, rfl, remainder_hiLo_spec hX a b⟩

end

/-- Settles O54: the destination is checked before the divisor and SP's range after it; then DIVD is an operand write,
and so are MOD and MODI unless `MOD_WRITES_HILO` is set. -/
theorem divideDirectAndRemainder : Obligations.DivideDirectAndRemainder := by
  refine ⟨fun x y z => ⟨decode_bytes rfl fun _ _ => rfl, decode_bytes rfl fun _ _ => rfl,
    decode_bytes rfl fun _ _ => rfl, refusesBadRegister rfl, refusesBadRegister rfl, refusesBadRegister rfl⟩,
    fun X Y Z s => ?_, fun X Y Z s => ?_, fun X Y n s => ?_⟩
  · rw [exec_divd]
    refine ⟨divisionChecks_writeDivided s X _ _, fun hb => ?_⟩
    rw [writeDivided_eq_writeOperand hb]
    exact writeOperand_spec s X _
  · exact exec_mod X Y Z s ▸ remainder_writeRemainder s X _ _
  · exact exec_modi X Y n s ▸ remainder_writeRemainder s X _ _

/-! ## Jumps -/

/-- A taken jump by a number of instructions adds four times the number to PC. -/
theorem jumpIf_true_spec (s : State) {offset : Int} {target : Word} (h : relativeTarget s.pc offset = target) :
    Completes (jumpIf s true offset) fun t => s.OnlyRegisters t [.pc] ∧ t.pc = target := by
  obtain ⟨t, ht, hpc, honly⟩ := jumpIf_spec s true offset
  exact ⟨t, ht, honly, hpc.trans h⟩

/-- Settles O59: JMP and JMPR are taken relative jumps, GO writes PC. -/
theorem unconditionalJumps : Obligations.UnconditionalJumps := by
  refine ⟨fun n => ⟨decode_append24 rfl fun _ _ _ _ => rfl, decode_append24 rfl fun _ _ _ _ => rfl⟩,
    fun x unused => ⟨decode_append16 rfl fun _ _ _ => rfl, refusesBadRegister rfl⟩,
    fun s => ⟨fun n => ?_, fun X => ?_, fun n => ?_⟩⟩
  · refine jumpIf_true_spec s ?_
    cases s.params.jmpSigned with
    | true => exact relativeTarget_signed s.pc (sext n)
    | false => exact relativeTarget_unsigned s.pc (zext n)
  · rw [exec_jmpr]
    exact jumpIf_true_spec s (relativeTarget_signed s.pc _)
  · exact ⟨_, rfl, s.onlyRegisters_setReg .pc (zext n), rfl⟩

end Sys2Proof.Machine
end

section
/-! PROOFS. The other control instructions, WAKE, power-up and the effective address (10_state.md section 8;
20_memory.md section 6; 40_control.md; 48_system.md; 60_exceptions.md section 2). -/

namespace Sys2Proof.Machine

/-! ## Power-up -/

/-- Settles O10: each field of the state after power-up is written out in its definition, and so is each default. -/
theorem powerUpModes : Obligations.PowerUpModes :=
  ⟨fun _ _ => ⟨rfl, rfl, rfl, rfl, rfl, rfl, rfl, rfl, rfl, rfl, rfl⟩, rfl, rfl, rfl, rfl, rfl, rfl, rfl, rfl⟩

/-- Settles O11: the default bit numbers, cause by cause. -/
theorem errorBitsAtReset : Obligations.ErrorBitsAtReset := rfl

/-! ## Control instructions -/

/-- A word of format NNN decodes to its instruction with the 24-bit number. -/
theorem decode_formatNNN {op : Byte} {mk : BitVec 24 → Instr}
    (hrow : opcodeRows.find? (fun row => row.1 == op) = some (op, fun f => mk f.n24)) (n : BitVec 24) :
    decode (op ++ n) = .ok (mk n) :=
  decode_append24 hrow fun _ _ _ _ => rfl

/-- Settles O31: the meaning of each is one field set. -/
theorem modeInstructionsSetTheirFlag : Obligations.ModeInstructionsSetTheirFlag :=
  ⟨fun unused => ⟨decode_format000 rfl unused, decode_format000 rfl unused, decode_format000 rfl unused,
      decode_format000 rfl unused, decode_format000 rfl unused, decode_format000 rfl unused⟩,
    decode_formatNNN rfl, fun _ => ⟨rfl, rfl, rfl, rfl, rfl, rfl, fun _ => rfl⟩⟩

/-- Any operand of CRM but 0 and 1 is an error (R352). -/
theorem exec_crm_of_two_le {n : BitVec 24} (h : 2 ≤ n.toNat) (s : State) :
    exec (.crm n) s = signalError s .badOperand s.ir := by
  have h0 : n ≠ 0 := by
    rintro rfl
    exact absurd h (by decide)
  have h1 : n ≠ 1 := by
    rintro rfl
    exact absurd h (by decide)
  exact (if_neg h0).trans (if_neg h1)

/-- Settles O32: the three cases of CRM's operand. -/
theorem crmSelectsRunMode : Obligations.CrmSelectsRunMode := by
  refine fun n => ⟨decode_formatNNN rfl n, fun s => ⟨?_, ?_, fun hn => ?_⟩⟩
  · rintro rfl
    rfl
  · rintro rfl
    rfl
  · rw [exec_crm_of_two_le hn]
    exact reports_of_not_protection _ rfl _

/-- The registers after RSR are those after power-up. -/
theorem State.content_restart (s : State) (r : Reg) :
    s.restart.content r = (State.powerUp s.params s.mem).content r := by
  cases r <;> rfl

/-- Settles O33: RSR is power-up with the memory and the traces that are there. -/
theorem rsrRestarts : Obligations.RsrRestarts :=
  ⟨decode_format000 rfl, fun s => ⟨s.restart, rfl, s.content_restart, fun _ => rfl, rfl, .of_eq, rfl, rfl, rfl, rfl,
    rfl⟩⟩

/-! ## WAKE -/

section

variable {s : State} (n : BitVec 24)

theorem exec_wake (hon : s.osOn = true) : exec (.wake n) s = .next (wakeHandlerOf s.params.wakeHandler n s) :=
  congrArg Host.Outcome.next (if_pos hon)

/-- What an operating system of the environment hands back: its registers, mode flags and memory bytes (R330). -/
theorem State.handedBack_spec (s u : State) :
    (∀ r : Reg, (s.handedBack u).content r = u.content r) ∧
      (∀ a : Nat, Memory.read (s.handedBack u).mem a =
        if a < s.params.memSize then Memory.read u.mem a else unwrittenByte) ∧
      (s.handedBack u).power = u.power ∧ u.SameModes (s.handedBack u) ∧ s.SameFixed (s.handedBack u) ∧
      (s.handedBack u).deviceTrace = s.deviceTrace :=
  ⟨s.content_handedBack u, fun a => Memory.read_clip s.params.memSize a u.mem, rfl, .of_eq, ⟨rfl, rfl, rfl, rfl⟩, rfl⟩

end

/-- Settles O34: WAKE is one call of the handler that the parameter names, where `osOn` is true. -/
theorem wakeCallsTheHandler : Obligations.WakeCallsTheHandler := by
  refine ⟨decode_formatNNN rfl, fun n s hoff => exec_wake_of_osOff hoff n, fun n s hon hdefault => ?_,
    fun n s hon henvironment => ?_, fun _ _ _ => rfl⟩
  · rw [exec_wake n hon, hdefault]
    rfl
  · rw [exec_wake n hon, henvironment]
    exact ⟨_, rfl, s.handedBack_spec (Config.wakeHandler n s)⟩

/-! ## The effective address -/

/-- Settles O37: the sum modulo 2^32. -/
theorem effectiveAddressWraps : Obligations.EffectiveAddressWraps := by
  intro base offset
  have hsum : effectiveAddress base offset = base + offset := effectiveAddress_eq base offset
  exact ⟨hsum, by rw [hsum, BitVec.toNat_add]⟩

end Sys2Proof.Machine
end

section
/-! PROOFS. The stack: pushes, pops, CALL and RET (42_store_stack.md section 2; 47_subprogram.md). -/

namespace Sys2Proof.Machine

open Sys2Proof.Claims

/-! ## Decoding -/

theorem PushForm.decode_eq {w : Word} {i : Instr} {X : Reg} {n : Width} (h : PushForm w i X n) : decode w = .ok i := by
  cases h <;> exact decode_bytes rfl fun _ _ => rfl

theorem PopForm.decode_eq {w : Word} {i : Instr} {X : Reg} {n : Width} (h : PopForm w i X n) : decode w = .ok i := by
  cases h <;> exact decode_bytes rfl fun _ _ => rfl

/-- The state after a push of the value: SP is lowered, and the value's low bytes lie there. -/
def State.pushed (s : State) (n : Width) (v : Word) : State :=
  { s.setReg .sp (pushTop s n) with mem := Memory.store s.mem (pushTop s n).toNat (bytesOf v n) }

/-- What a push has done: the value lies at the lowered SP, and nothing else has changed but for the registers of the
list (R199 (a)). -/
structure State.Stacked (s t : State) (n : Width) (v : Word) (l : List Reg) : Prop where
  sp : t.sp = pushTop s n
  holds : Holds t.mem (pushTop s n).toNat n v
  outside : s.SameBytesOutside t (pushTop s n).toNat n.bytes
  registers : s.SameRegistersBut t l
  machine : s.SameMachine t

section

variable {s t : State} {X : Reg} {n : Width} {v : Word}

/-! ## Where SP goes -/

/-- The lowered SP of a push that has no room lies above the memory, since it wraps (R199, R347). -/
theorem memMax_lt_pushTop (h : s.sp.toNat < n.bytes) : s.params.memMax < (pushTop s n).toNat := by
  have hsize := s.params.memSize_le
  have hmax : s.params.memMax ≤ s.params.memSize := Nat.sub_le _ _
  rw [pushTop_eq, BitVec.toNat_sub, BitVec.toNat_ofNat]
  cases n <;> simp only [Width.bytes] at h ⊢ <;> omega

theorem toNat_pushTop (h : n.bytes ≤ s.sp.toNat) : (pushTop s n).toNat = s.sp.toNat - n.bytes := by
  rw [pushTop_eq, BitVec.toNat_sub, BitVec.toNat_ofNat]
  cases n <;> simp only [Width.bytes] at h ⊢ <;> omega

theorem toNat_add_bytes {a : Word} (h : a.toNat < 2 ^ 31) :
    (a + BitVec.ofNat 32 n.bytes).toNat = a.toNat + n.bytes := by
  rw [BitVec.toNat_add, BitVec.toNat_ofNat]
  cases n <;> simp only [Width.bytes] <;> omega

theorem pushTop_add_bytes (s : State) (n : Width) : pushTop s n + BitVec.ofNat 32 n.bytes = s.sp := by
  rw [pushTop_eq, BitVec.sub_add_cancel]

/-! ## Pushes -/

/-- With room below SP the write of a push reaches the memory. -/
theorem memWrite_pushTop (hs : s.Inv) (h : n.bytes ≤ s.sp.toNat) (v : Word) :
    memWrite { s with sp := pushTop s n } (pushTop s n) n v = some (s.pushed n v) := by
  refine memWrite_memory (s := { s with sp := pushTop s n }) hs.busBuilt v ?_
  have hlt := hs.spInRange.trans_lt hs.toSound.memMax_lt_memSize
  have htop := toNat_pushTop h
  change (pushTop s n).toNat + n.bytes ≤ s.params.memSize
  omega

/-- The lowered SP is in its range. -/
theorem pushTop_le_memMax (hs : s.Inv) (h : n.bytes ≤ s.sp.toNat) : (pushTop s n).toNat ≤ s.params.memMax := by
  rw [toNat_pushTop h]
  exact (Nat.sub_le _ _).trans hs.spInRange

theorem stacked (hs : s.Sound) (n : Width) (v : Word) :
    s.Stacked (s.pushed n v) n v [.sp] := by
  obtain ⟨hholds, houtside⟩ := holds_and_sameBytesOutside_store (t := s.pushed n v) hs rfl
  refine ⟨rfl, hholds, houtside, fun r hr => ?_, ⟨rfl, .of_eq, ⟨rfl, rfl, rfl, rfl⟩, rfl⟩⟩
  exact (State.content_withMem (s.setReg .sp (pushTop s n)) _ r).trans
    ((s.onlyRegisters_setReg .sp _).registers r hr)

/-- Registers written after a push belong to what it has done, where SP is none of them. -/
theorem State.Stacked.trans {u : State} {l l' : List Reg} (h : s.Stacked t n v l) (honly : t.OnlyRegisters u l')
    (hsp : Reg.sp ∉ l') (hmem : u.mem = t.mem) : s.Stacked u n v (l' ++ l) where
  sp := (honly.registers .sp hsp).trans h.sp
  holds := hmem ▸ h.holds
  outside b hb := (honly.bytes b).trans (h.outside b hb)
  registers r hr := by
    rw [List.mem_append, not_or] at hr
    exact (honly.registers r hr.1).trans (h.registers r hr.2)
  machine := h.machine.trans honly.machine

/-- X is read after SP has been lowered (R194). -/
theorem operand_withSp (s : State) (w : Word) (X : Reg) :
    State.operand { s with sp := w } .x X = if X = .sp then w else s.operand .x X := by
  cases X <;> rfl

theorem pushFrom_out (hon : s.busOn = true) (h : s.params.memMax < (pushTop s n).toNat) :
    pushFrom s X n = signalError s .spRange (pushTop s n) := by
  have hbus : pushFrom s X n = _ := withBus_on hon _
  rw [hbus, withSpRange_out h]

theorem pushFrom_spec (hs : s.Inv) (hon : s.busOn = true) (h : n.bytes ≤ s.sp.toNat) :
    ∃ t, pushFrom s X n = .next t ∧
      s.Stacked t n (if X = .sp then pushTop s n else s.operand .x X) [.sp] := by
  have hbus : pushFrom s X n = _ := withBus_on hon _
  rw [hbus, withSpRange_ok fun _ => pushTop_le_memMax hs h, memWrite_pushTop hs h, operand_withSp]
  exact ⟨_, rfl, stacked hs.toSound n _⟩

/-! ## Pops -/

theorem raiseSp_eq (s t : State) (n : Width) : raiseSp s t n =
    withSpRange s .sp (t.sp + BitVec.ofNat 32 n.bytes) (.next (t.setReg .sp (t.sp + BitVec.ofNat 32 n.bytes))) := by
  have hraised : trunc32 (unsigned t.sp + n.bytes) = t.sp + BitVec.ofNat 32 n.bytes := by
    cases n
    · exact trunc32_unsigned_add t.sp 1
    · exact trunc32_unsigned_add t.sp 2
    · exact trunc32_unsigned_add t.sp 4
  rw [← hraised]
  rfl

theorem popInto_protected (hon : s.busOn = true) (hX : X.writeProtected = true) :
    popInto s X n = signalError s .writeProtected (zext X.number) :=
  (withBus_on hon _).trans (withWritable_protected hX _)

theorem popInto_none (hon : s.busOn = true) (hX : X.writeProtected = false) (hread : memRead s s.sp n = none) :
    popInto s X n = signalError s .busError s.sp := by
  have hchecked : popInto s X n = _ := (withBus_on hon _).trans (withWritable_ok hX _)
  rw [hchecked, hread]

theorem popInto_some (hon : s.busOn = true) (hX : X.writeProtected = false) (hread : memRead s s.sp n = some (v, t)) :
    popInto s X n = withSpRange s X (mergeLow n (s.operand .x X) v)
      (raiseSp s (t.setReg X (mergeLow n (s.operand .x X) v)) n) := by
  have hchecked : popInto s X n = _ := (withBus_on hon _).trans (withWritable_ok hX _)
  rw [hchecked, hread]

/-- With SP in the memory a read at SP that reaches beyond its end is answered by no port (R77). -/
theorem memRead_sp_none (hs : s.Inv) (h : s.params.memSize < s.sp.toNat + n.bytes) : memRead s s.sp n = none := by
  have hlt := hs.spInRange.trans_lt hs.toSound.memMax_lt_memSize
  have hsize := s.params.memSize_le
  refine memRead_cannot (.inl ⟨signed_nonneg_of_lt (by omega), fun p hp => ?_⟩)
  rw [hs.busBuilt] at hp
  rcases List.mem_cons.1 hp with rfl | hp
  · exact .inr (by simpa using h)
  · obtain ⟨hstart, -⟩ := mem_layoutPorts _ _ hp
    exact .inl (by omega)

/-- A pop of bytes in the memory checks SP's range for the merged value, and then for the raised SP (R199, D38). -/
theorem popInto_memory (hs : s.Inv) (hon : s.busOn = true) (hX : X.writeProtected = false)
    (hin : s.sp.toNat + n.bytes ≤ s.params.memSize)
    (hmerged : Merged (s.operand .x X) n (fun j => Memory.read s.mem (s.sp.toNat + j)) v) :
    popInto s X n = withSpRange s X v (raiseSp s (s.setReg X v) n) := by
  rw [popInto_some hon hX (memRead_memory hs.busBuilt hin), ← merged_iff.1 hmerged]

/-- An SP raised out of the memory is reported on the state before the instruction (D38). -/
theorem raiseSp_out (h : s.params.memMax < (t.sp + BitVec.ofNat 32 n.bytes).toNat) :
    raiseSp s t n = signalError s .spRange (t.sp + BitVec.ofNat 32 n.bytes) := by
  rw [raiseSp_eq, withSpRange_out h]

theorem raiseSp_ok (h : (t.sp + BitVec.ofNat 32 n.bytes).toNat ≤ s.params.memMax) :
    raiseSp s t n = .next (t.setReg .sp (t.sp + BitVec.ofNat 32 n.bytes)) := by
  rw [raiseSp_eq, withSpRange_ok fun _ => h]

theorem sp_setReg_of_ne (s : State) {X : Reg} (hne : X ≠ .sp) (v : Word) : (s.setReg X v).sp = s.sp :=
  s.content_setReg_ne (q := .sp) hne.symm v

/-- A pop into another register than SP: X holds the value, SP is raised, and nothing else has changed. -/
theorem popInto_ne_sp (hs : s.Inv) (hon : s.busOn = true) (hX : X.writeProtected = false)
    (hin : s.sp.toNat + n.bytes < s.params.memSize)
    (hmerged : Merged (s.operand .x X) n (fun j => Memory.read s.mem (s.sp.toNat + j)) v) (hne : X ≠ .sp) :
    Completes (popInto s X n) fun t =>
      t.content X = v ∧ t.sp = s.sp + BitVec.ofNat 32 n.bytes ∧ s.OnlyRegisters t [X, .sp] := by
  have hsize := s.params.memSize_le
  have hsp := sp_setReg_of_ne s hne v
  have hraised := toNat_add_bytes (a := s.sp) (n := n) (by omega)
  have hmax : s.params.memMax = s.params.memSize - 1 := rfl
  rw [popInto_memory hs hon hX hin.le hmerged, withSpRange_ok fun h => absurd h hne, raiseSp_ok (by rw [hsp]; omega)]
  refine ⟨_, rfl, ?_, congrArg (· + _) hsp, (s.onlyRegisters_setReg X v).trans (State.onlyRegisters_setReg _ .sp _)⟩
  rw [State.content_setReg_ne _ hne, State.content_setReg_self _ hX]

end

/-! ## The statements -/

/-- Settles O46: the lowered SP is below the memory's end exactly where SP is at least n. -/
theorem pushesStoreBelow : Obligations.PushesStoreBelow := by
  intro w i X n hform
  refine ⟨hform.decode_eq, fun s hs hon => ⟨pushTop_eq s n, fun hlow hprotect => ?_, fun hroom => ?_⟩⟩
  · rw [hform.exec_eq, pushFrom_out hon (memMax_lt_pushTop hlow)]
    exact signalError_reports _ fun _ => hprotect
  · obtain ⟨t, hexec, hstacked⟩ := pushFrom_spec (X := X) hs hon hroom
    rw [hform.exec_eq]
    exact ⟨t, hexec, hstacked.sp, hstacked.holds, hstacked.outside, hstacked.registers, hstacked.machine⟩

/-- Settles O47: the destination, the read, SP's range of the loaded value and that of the raised SP, in this order. -/
theorem popsLoadFromTop : Obligations.PopsLoadFromTop := by
  intro w i X n hform
  refine ⟨hform.decode_eq, fun s hs hon => ?_⟩
  have hsize := s.params.memSize_le
  have hmax : s.params.memMax = s.params.memSize - 1 := rfl
  rw [hform.exec_eq]
  refine ⟨fun hX hprotect => ?_, fun hX hbeyond => ?_, fun v hX hin hmerged => ⟨fun hne => ⟨fun hend hprotect => ?_,
    fun hbelow => popInto_ne_sp hs hon hX hbelow hmerged hne⟩, ?_⟩⟩
  · rw [popInto_protected hon hX]
    exact signalError_reports _ fun _ => hprotect
  · rw [popInto_none hon hX (memRead_sp_none hs hbeyond)]
    exact reports_of_not_protection _ rfl _
  · have hn := n.bytes_pos
    have hsp := sp_setReg_of_ne s hne v
    have hraised := toNat_add_bytes (a := s.sp) (n := n) (by omega)
    rw [popInto_memory hs hon hX hin hmerged, withSpRange_ok fun h => absurd h hne, raiseSp_out (by rw [hsp]; omega),
      hsp]
    exact signalError_reports _ fun _ => hprotect
  · rintro rfl
    have hpop := popInto_memory hs hon hX hin hmerged
    have hsp : (s.setReg .sp v).sp = v := rfl
    refine ⟨fun hout hprotect => ?_, fun hv hout hprotect => ?_, fun hv => ?_⟩
    · rw [hpop, withSpRange_out hout]
      exact signalError_reports _ fun _ => hprotect
    · have hraised := toNat_add_bytes (a := v) (n := n) (by omega)
      rw [hpop, withSpRange_ok fun _ => hv, raiseSp_out (by rw [hsp]; omega)]
      exact signalError_reports _ fun _ => hprotect
    · have hraised := toNat_add_bytes (a := v) (n := n) (by omega)
      rw [hpop, withSpRange_ok fun _ => by omega, raiseSp_ok (by rw [hsp]; omega)]
      exact ⟨_, rfl, rfl, ((s.onlyRegisters_setReg .sp v).trans (State.onlyRegisters_setReg _ .sp _)).mono (by simp)⟩

/-- Settles O48: the word lies at the lowered SP, where the pop reads it. -/
theorem popAfterPushReturnsTheWord : Obligations.PopAfterPushReturnsTheWord := by
  intro X Y s hs hon hroom hX hY hwritable
  obtain ⟨t, hpush, hstacked⟩ := pushFrom_spec (X := X) (n := .word) hs hon hroom
  rw [if_neg hX] at hstacked
  have hexec : exec (.push X.number) s = .next t := ((PushForm.push X 0 0).exec_eq s).trans hpush
  have hparams : t.params = s.params := hstacked.machine.fixed.params
  have ht : t.Inv := ⟨(exec_next hexec).sound hs.toSound, by
    rw [hstacked.sp, hparams]
    exact pushTop_le_memMax hs hroom⟩
  have htop : t.sp.toNat = s.sp.toNat - 4 := by
    rw [hstacked.sp]
    exact toNat_pushTop hroom
  have hmerged : Merged (t.operand .x Y) .word (fun j => Memory.read t.mem (t.sp.toNat + j)) (s.operand .x X) :=
    merged_iff.2 (by rw [hstacked.sp]; exact (wordFrom_of_holds hstacked.holds).symm)
  have hin : t.sp.toNat + 4 < t.params.memSize := by
    have hlt := hs.spInRange.trans_lt hs.toSound.memMax_lt_memSize
    rw [hparams]
    omega
  have hton : t.busOn = true := hstacked.machine.modes.busOn.trans hon
  obtain ⟨u, hpop, hvalue, hsp, honly⟩ := popInto_ne_sp (n := .word) ht hton hwritable hin hmerged hY
  have hback : u.sp = s.sp := by
    rw [hsp, hstacked.sp]
    exact pushTop_add_bytes s .word
  refine ⟨t, u, hexec, ((PopForm.pop Y 0 0).exec_eq t).trans hpop, hvalue, hback, fun r hr => ?_⟩
  by_cases hrsp : r = .sp
  · subst hrsp
    exact hback
  · have hrY : r ≠ Y := by simpa using hr
    exact (honly.registers r (by simp [hrY, hrsp])).trans (hstacked.registers r (by simp [hrsp]))

section

variable {s : State}

/-! ## CALL and RET -/

theorem exec_call_out (n : BitVec 24) (hon : s.busOn = true) (h : s.params.memMax < (pushTop s .word).toNat) :
    exec (.call n) s = signalError s .spRange (pushTop s .word) := by
  have hcall : exec (.call n) s = _ := execCall_eq s n
  rw [hcall, withBus_on hon, withSpRange_out h]

/-- With room below SP the advanced PC is pushed as a word, and PC takes the address. -/
theorem exec_call_spec (n : BitVec 24) (hs : s.Inv) (hon : s.busOn = true) (h : 4 ≤ s.sp.toNat) :
    ∃ t, exec (.call n) s = .next t ∧ t.pc = zext n ∧ s.Stacked t .word s.pc [.pc, .sp] := by
  have hcall : exec (.call n) s = _ := execCall_eq s n
  rw [hcall, withBus_on hon, withSpRange_ok fun _ => pushTop_le_memMax (n := .word) hs h,
    memWrite_pushTop (n := .word) hs h]
  exact ⟨_, rfl, rfl, (stacked hs.toSound .word s.pc).trans (State.onlyRegisters_setReg _ .pc (zext n)) (by decide) rfl⟩

theorem exec_ret_none (hon : s.busOn = true) (hread : memRead s s.sp .word = none) :
    exec .ret s = signalError s .busError s.sp := by
  have hret : exec .ret s = _ := execRet_eq s
  rw [hret, withBus_on hon, hread]
  rfl

theorem exec_ret_some {t : State} {v : Word} (hon : s.busOn = true) (hread : memRead s s.sp .word = some (v, t)) :
    exec .ret s = raiseSp s (t.setReg .pc v) .word := by
  have hret : exec .ret s = _ := execRet_eq s
  rw [hret, withBus_on hon, hread]
  rfl

theorem exec_ret_memory (hs : s.Inv) (hon : s.busOn = true) (hin : s.sp.toNat + 4 ≤ s.params.memSize) :
    exec .ret s = raiseSp s (s.setReg .pc (s.wordAt s.sp.toNat)) .word :=
  exec_ret_some hon (memRead_memory (n := .word) hs.busBuilt hin)

end

/-- Settles O49: CALL is a push of PC, RET a pop into PC. -/
theorem callAndRet : Obligations.CallAndRet := by
  refine ⟨decode_formatNNN rfl, decode_format000 rfl, fun s hs _ hon => ?_⟩
  have hsize := s.params.memSize_le
  have hmax : s.params.memMax = s.params.memSize - 1 := rfl
  have hword : Width.word.bytes = 4 := rfl
  have hsp : (s.setReg .pc (s.wordAt s.sp.toNat)).sp = s.sp := rfl
  refine ⟨fun n => ⟨fun hlow hprotect => ?_, fun hroom => ?_⟩, fun hbeyond => ?_, fun hend hprotect => ?_,
    fun hin => ?_⟩
  · rw [exec_call_out n hon (memMax_lt_pushTop (n := .word) hlow)]
    exact signalError_reports _ fun _ => hprotect
  · obtain ⟨t, hexec, hpc, hstacked⟩ := exec_call_spec n hs hon hroom
    exact ⟨t, hexec, hpc, hstacked.sp, hstacked.holds, hstacked.outside, hstacked.registers, hstacked.machine⟩
  · rw [exec_ret_none hon (memRead_sp_none (n := .word) hs hbeyond)]
    exact reports_of_not_protection _ rfl _
  · have hraised := toNat_add_bytes (a := s.sp) (n := .word) (by omega)
    rw [exec_ret_memory hs hon hend.le, raiseSp_out (by rw [hsp]; omega), hsp]
    exact signalError_reports _ fun _ => hprotect
  · have hraised := toNat_add_bytes (a := s.sp) (n := .word) (by omega)
    rw [exec_ret_memory hs hon hin.le, raiseSp_ok (by rw [hsp]; omega)]
    exact ⟨_, rfl, rfl, rfl, (s.onlyRegisters_setReg .pc _).trans (State.onlyRegisters_setReg _ .sp _)⟩

end Sys2Proof.Machine
end

section
/-! PROOFS. Violations while the protection mechanisms are off (60_exceptions.md section 3, D24). -/

namespace Sys2Proof.Machine

open Sys2Proof.Claims

section

variable {s : State} {i : Instr} {v : Word}

/-! ## SP out of its range -/

/-- The range check of SP stops the model while the protection mechanisms are off. -/
theorem withSpRange_fault (hp : s.protectOn = false) (hv : s.params.memMax < v.toNat) (k : Answer State) :
    withSpRange s .sp v k = .fault (.protectionOff .spRange) :=
  (withSpRange_out hv k).trans (signalError_off v rfl hp)

theorem writeOperand_sp_fault (hp : s.protectOn = false) (hv : s.params.memMax < v.toNat) :
    writeOperand s .sp v = .fault (.protectionOff .spRange) :=
  (withWritable_ok rfl _).trans (withSpRange_fault hp hv _)

theorem remainder_sp_fault (hp : s.protectOn = false) {a b : Word} (hb : b ≠ 0) (hv : s.params.memMax < (a % b).toNat) :
    writeRemainder s .sp (unsigned a) (unsigned b) = .fault (.protectionOff .spRange) := by
  rw [writeRemainder_of_ne hb, withWritable_ok rfl, withSpRange_fault hp hv]

theorem zext_ne_zero {n : BitVec 8} (hn : n ≠ 0) : zext n ≠ 0 := by
  intro h
  have hnat : (zext n).toNat = 0 := congrArg BitVec.toNat h
  exact hn (BitVec.eq_of_toNat_eq ((toNat_zext n).symm.trans hnat))

/-- Off the bus each value about to be written to SP comes to its range check. -/
theorem exec_of_spWrite (h : SpWrite s i v) (hp : s.protectOn = false) (hv : s.params.memMax < v.toNat) :
    exec i s = .fault (.protectionOff .spRange) := by
  cases h with
  | rrr hf Y Z => exact (exec_rrr _ hf .sp Y Z s).trans (writeOperand_sp_fault hp hv)
  | rrn hf Y n => exact (exec_rrn _ hf .sp Y n s).trans (writeOperand_sp_fault hp hv)
  | rr0 hf Y => exact (exec_rr0 _ hf .sp Y s).trans (writeOperand_sp_fault hp hv)
  | rnn hf n => exact (exec_rnn _ hf .sp n s).trans (writeOperand_sp_fault hp hv)
  | r00 hf => exact (exec_r00 _ hf .sp s).trans (writeOperand_sp_fault hp hv)
  | move Y hY => rw [exec_move, withWritable_ok rfl, withWritable_ok hY, withSpRange_fault hp hv]
  | divd Y Z hZ =>
    rw [exec_divd, writeDivided_eq_writeOperand hZ]
    exact writeOperand_sp_fault hp hv
  | mod Y Z hZ => exact (exec_mod .sp Y Z s).trans (remainder_sp_fault hp hZ hv)
  | modi Y n hn => exact (exec_modi .sp Y n s).trans (remainder_sp_fault hp (zext_ne_zero hn) hv)

/-! ## SP out of its range on the bus -/

theorem raiseSp_fault {t : State} {n : Width} (hp : s.protectOn = false)
    (hv : s.params.memMax < (t.sp + BitVec.ofNat 32 n.bytes).toNat) :
    raiseSp s t n = .fault (.protectionOff .spRange) := by
  rw [raiseSp_eq, withSpRange_fault hp hv]

/-- A read on the bus leaves SP alone. -/
theorem memRead_sp {t : State} {a : Word} {n : Width} (hread : memRead s a n = some (v, t)) : t.sp = s.sp :=
  (afterRead hread).sp_eq

/-- `POP SP` checks the loaded value before the raised one (R197). -/
theorem popInto_sp {t : State} {n : Width} {merged : Word} (hon : s.busOn = true)
    (hread : memRead s s.sp n = some (v, t)) (hmerged : Merged s.sp n (fun j => byteOf v (n.bytes - 1 - j)) merged) :
    popInto s .sp n = withSpRange s .sp merged (raiseSp s (t.setReg .sp merged) n) := by
  rw [merged_lowBytes.1 hmerged]
  exact popInto_some hon rfl hread

/-- On the bus each value about to be written to SP comes to its range check where the read is answered. -/
theorem exec_of_spWriteOnBus (h : SpWriteOnBus s i v) (hon : s.busOn = true) (hp : s.protectOn = false)
    (hv : s.params.memMax < v.toNat) : exec i s = .fault (.protectionOff .spRange) := by
  cases h with
  | load hform hread hmerged =>
    rw [merged_lowBytes.1 hmerged] at hv
    rw [hform.exec_eq, loadInto_some hon hread, withWritable_ok rfl]
    exact withSpRange_fault hp hv _
  | push hform =>
    rw [← pushTop_eq] at hv
    rw [hform.exec_eq, pushFrom_out hon hv]
    exact signalError_off _ rfl hp
  | pop hform hne hX hread =>
    rw [hform.exec_eq, popInto_some hon hX hread, withSpRange_ok fun h => absurd h hne]
    exact raiseSp_fault hp (by rwa [sp_setReg_of_ne _ hne, memRead_sp hread])
  | popSp hform hread hmerged =>
    rw [hform.exec_eq, popInto_sp hon hread hmerged]
    exact withSpRange_fault hp hv _
  | @popSpRaised w i n r t merged hform hread hmerged =>
    rw [hform.exec_eq, popInto_sp hon hread hmerged]
    by_cases hloaded : s.params.memMax < merged.toNat
    · exact withSpRange_fault hp hloaded _
    · rw [withSpRange_ok fun _ => not_lt.1 hloaded]
      exact raiseSp_fault hp hv
  | call n =>
    have htop : pushTop s .word = s.sp - 4 := pushTop_eq s .word
    rw [exec_call_out n hon (by rwa [htop])]
    exact signalError_off _ rfl hp
  | ret hread =>
    rw [exec_ret_some hon hread]
    exact raiseSp_fault hp (by rwa [sp_setReg_of_ne _ (by decide), memRead_sp hread])

end

/-- Settles O16: each check signals its violation, which without protection is the fault that names it. -/
theorem violationsAfterTrstStop : Obligations.ViolationsAfterTrstStop := by
  refine fun s hp => ⟨fun i hw => ?_, fun i hw hbus hdest => ?_, fun i v hsp hv => exec_of_spWrite hsp hp hv,
    fun i v hsp hon hv => exec_of_spWriteOnBus hsp hon hp hv⟩
  · rw [exec_of_not_wellFormed hw]
    exact signalError_off _ rfl hp
  · obtain ⟨x, hx, hprotected⟩ := hdest
    obtain ⟨y, hy⟩ := Option.isSome_iff_exists.1
      (List.find?_isSome.2 ⟨x, hx, decide_eq_true hprotected⟩ : (i.destinations.find? (· ∈ protectedNumbers)).isSome)
    rw [exec_of_protected hw hbus hy]
    exact signalError_off _ rfl hp

end Sys2Proof.Machine
end
